-- ==== Sys2Proof/Word.lean ====
section
/-! DEFINITION. The two widths of the machine (00_scope.md R5, R6): the byte and the 16-bit word. -/

namespace Sys2Proof

/-- An 8-bit value: a register, a memory byte, an opcode, an immediate (R6, R7). -/
abbrev Byte := BitVec 8

/-- A 16-bit value: PC, SP, an address, a register pair (R6, R7). -/
abbrev Word := BitVec 16

end Sys2Proof
end

