-- ==== Sys2Proof/Config.lean ====
section
/-! DEFINITION. The parameters of 00_scope.md R5: the behavioural ones a step reads, the start values construction
takes, and the one free value of the hardware, the input oracle `PortIn`. Their defaults are in Machine/Params.lean. -/

namespace Sys2Proof

/-- `UNDOC_MODE` (R95, D6): what the twelve unassigned opcode bytes do.
`faulting` is the spec's `fault`, `aliased` the spec's `alias`. -/
inductive UndocMode where
  | faulting
  | aliased
  deriving DecidableEq, Repr

/-- `AC_SUB_POLARITY` (R114, D11): AC after a subtraction is the nibble borrow, or its negation. -/
inductive AcSubPolarity where
  | borrow
  | carry
  deriving DecidableEq, Repr

/-- `ANA_AC_MODE` (R116, D13): AC after ANA and ANI is bit 3 of the OR of the operands, or false. -/
inductive AnaAcMode where
  | orBit3
  | zero
  deriving DecidableEq, Repr

/-- The parameters of R5 that a step reads. They are fixed for a machine: State carries them and no step writes them,
so that a statement about every state is a statement about every value of them (DESIGN CHOICE, log 3; safe). -/
structure Config where
  /-- `UNDOC_MODE`. -/
  undocMode : UndocMode
  /-- `UNIMPL`, the opcode bytes reported as unimplemented (R312). -/
  unimpl : List Byte
  /-- `AC_SUB_POLARITY`. -/
  acSubPolarity : AcSubPolarity
  /-- `ANA_AC_MODE`. -/
  anaAcMode : AnaAcMode
  deriving DecidableEq, Repr

/-- `PortIn(port, in_count)` (R270, D19): the byte the environment supplies for an IN. A free value: it has no body, so
nothing can be proved of what it is (log 11; safe). -/
opaque Config.portIn : Byte → Nat → Byte

end Sys2Proof
end

