-- ==== Sys2Proof/Machine/Params.lean ====
section
/-! DEFINITION. The values the model gives the parameters of 00_scope.md R5 at reset: the spec's defaults. -/

namespace Sys2Proof.Machine

/-- What an address that memory does not list reads as: `MEM_TAIL`, default constant 0x00 (R38, D4).
DESIGN CHOICE, log 6; unsafe. -/
def unlistedByte : Byte := 0x00

/-- `REG_INIT`, default 0x00 for each of A, B, C, D, E, H, L (R38, D3). DESIGN CHOICE, log 5; unsafe. -/
def resetRegister : Byte := 0x00

/-- `FLAG_INIT`, default false for each of Z, S, P, CY, AC (R38, D3). DESIGN CHOICE, log 5; unsafe. -/
def resetFlag : Bool := false

/-- `RESET_PC`, default 0x0000: "PC=0 ... (or a configured reset vector)" (R38, D5; log 7). -/
def resetPc : Word := 0x0000

/-- "SP=0" (R38). -/
def resetSp : Word := 0x0000

/-- `UNDOC_MODE = fault`, `UNIMPL` empty, `AC_SUB_POLARITY = borrow`, `ANA_AC_MODE = or_bit3` (R5, D6, D7, D11, D13).
DESIGN CHOICE, log 4; unsafe. -/
def resetConfig : Config where
  undocMode := .faulting
  unimpl := []
  acSubPolarity := .borrow
  anaAcMode := .orBit3

end Sys2Proof.Machine
end

