-- ==== Sys2Proof/Syntax.lean ====
section
/-! DEFINITION. The instructions as syntax: one constructor of `Instr` per row of opcode_table.json (R90, R99). -/

namespace Sys2Proof

/-- The seven general registers (10_state.md R21). -/
inductive Reg where
  | b | c | d | e | h | l | a
  deriving DecidableEq, Repr

/-- What a three-bit register code selects (R23): a register, or M, the byte at H:L. -/
inductive Loc where
  | reg (r : Reg)
  | m
  deriving DecidableEq, Repr

/-- The register pairs B (B:C), D (D:E), H (H:L) and SP (R22, R25). PSW is not one of them: PUSH PSW and POP PSW are
instructions of their own. -/
inductive RegPair where
  | b | d | h | sp
  deriving DecidableEq, Repr

/-- The eight conditions of the conditional jumps, calls and returns (R221). -/
inductive Cond where
  | nz | z | nc | c | po | pe | p | m
  deriving DecidableEq, Repr

/-- One constructor per row of the opcode table. `d8` is an 8-bit operand, `d16` and `a16` 16-bit operands already
assembled from their two bytes. The operand forms a type does not rule out are checked in WellFormed.lean. -/
inductive Instr where
  /- Data transfer (41_data_transfer.md). -/
  | movRR (dst src : Reg)
  | movRM (dst : Reg)
  | movMR (src : Reg)
  | mviR (dst : Reg) (d8 : Byte)
  | mviM (d8 : Byte)
  | lxi (rp : RegPair) (d16 : Word)
  | lda (a16 : Word)
  | sta (a16 : Word)
  | lhld (a16 : Word)
  | shld (a16 : Word)
  | ldax (rp : RegPair)
  | stax (rp : RegPair)
  | xchg
  /- Arithmetic (42_arithmetic.md). -/
  | addR (src : Reg)
  | addM
  | adi (d8 : Byte)
  | adcR (src : Reg)
  | adcM
  | aci (d8 : Byte)
  | subR (src : Reg)
  | subM
  | sui (d8 : Byte)
  | sbbR (src : Reg)
  | sbbM
  | sbi (d8 : Byte)
  | inrR (r : Reg)
  | inrM
  | dcrR (r : Reg)
  | dcrM
  | inx (rp : RegPair)
  | dcx (rp : RegPair)
  | dad (rp : RegPair)
  | daa
  /- Logical (43_logical.md). -/
  | anaR (src : Reg)
  | anaM
  | ani (d8 : Byte)
  | xraR (src : Reg)
  | xraM
  | xri (d8 : Byte)
  | oraR (src : Reg)
  | oraM
  | ori (d8 : Byte)
  | cmpR (src : Reg)
  | cmpM
  | cpi (d8 : Byte)
  | rlc
  | rrc
  | ral
  | rar
  | cma
  | cmc
  | stc
  /- Branch (44_branch.md). -/
  | jmp (a16 : Word)
  | jnz (a16 : Word)
  | jz (a16 : Word)
  | jnc (a16 : Word)
  | jc (a16 : Word)
  | jpo (a16 : Word)
  | jpe (a16 : Word)
  | jp (a16 : Word)
  | jm (a16 : Word)
  | call (a16 : Word)
  | cnz (a16 : Word)
  | cz (a16 : Word)
  | cnc (a16 : Word)
  | cc (a16 : Word)
  | cpo (a16 : Word)
  | cpe (a16 : Word)
  | cp (a16 : Word)
  | cm (a16 : Word)
  | ret
  | rnz
  | rz
  | rnc
  | rc
  | rpo
  | rpe
  | rp
  | rm
  | rst (n : Fin 8)
  | pchl
  /- Stack, I/O, control (45_stack_io_control.md). -/
  | pushRp (rp : RegPair)
  | pushPsw
  | popRp (rp : RegPair)
  | popPsw
  | xthl
  | sphl
  | ei
  | di
  | hlt
  | nop
  | inp (port : Byte)
  | out (port : Byte)
  /- The twelve unassigned bytes (R273 to R276). `x` is the varying field of the row's pattern. The operand bytes that
  the JMP and CALL aliases use in alias mode only are no part of the term (the row has no fields, length 1): log 15. -/
  | unassignedNop (x : Fin 8)
  | unassignedJmp
  | unassignedRet
  | unassignedCall (x : Fin 4)
  deriving DecidableEq, Repr

end Sys2Proof
end

