-- ==== Sys2Proof/Machine/State.lean ====
section
/-! DEFINITION. The processor state (10_state.md R20), its reset value (R38), and the reasons a step can stop. -/

namespace Sys2Proof.Machine

/-- The seven general registers, 8 bits each (R21). -/
structure Regs where
  a : Byte
  b : Byte
  c : Byte
  d : Byte
  e : Byte
  h : Byte
  l : Byte
  deriving DecidableEq, Repr

/-- The five condition flags, "five independent boolean flags" (R30). -/
structure Flags where
  z : Bool
  s : Bool
  p : Bool
  cy : Bool
  ac : Bool
  deriving DecidableEq, Repr

/-- Memory (R34, R50): (address, byte) pairs in one canonical form (`Memory.wf` in Machine/Ops.lean). -/
abbrev Memory := List Host.Cell

/-- The run state of the execution engine (R35). -/
inductive RunState where
  | running
  | halted
  deriving DecidableEq, Repr

/-- The result of a step (R293). -/
inductive StepResult where
  | continued
  | halted
  | unimplementedOpcode (byte : Byte) (pc : Word)
  | unknownOpcode (byte : Byte) (pc : Word)
  deriving DecidableEq, Repr

/-- The processor state (R20, R35, R36). -/
structure State where
  /-- A, B, C, D, E, H, L (R21). -/
  regs : Regs
  /-- The stack pointer (R29). -/
  sp : Word
  /-- The program counter (R26). -/
  pc : Word
  /-- Z, S, P, CY, AC (R30). -/
  flags : Flags
  /-- The interrupt-enable bit (R33). -/
  ie : Bool
  /-- The 65,536 bytes of memory (R34). -/
  mem : Memory
  /-- Running or Halted (R35). -/
  run : RunState
  /-- The result of the step that halted (R35); `continued` while no step has. -/
  result : StepResult
  /-- The output trace, oldest first: (port, value) (R36). -/
  ioOut : List (Byte × Byte)
  /-- How many IN instructions have executed (R36): the counter of the free value `Config.portIn`. -/
  inCount : Nat
  /-- The parameters a step reads (R5); the model's own field, which no step writes (log 3). -/
  config : Config
  deriving DecidableEq, Repr

/-- Why the machine takes no step. -/
inductive Fault where
  /-- Raised by `step` on a state whose run state is Halted: "when `run = Halted` the engine takes no step" (R295). Safe:
  the hardware goes no further there either (log 10). The faults the spec names, `UnknownOpcode` and
  `UnimplementedOpcode`, are step results and not this: the step that reports one is a next state (R313, log 9). -/
  | haltedMachine
  deriving DecidableEq, Repr

/-- Why an instruction has no meaning. -/
inductive Refusal where
  /-- Raised by an arm of `exec` that has no meaning yet. Safe. No arm does. -/
  | notModelled (mnemonic : String)
  deriving DecidableEq, Repr

/-- What a meaning and a step answer. -/
abbrev Result := Host.Outcome State Fault Refusal

/-- The state right after construction from the empty image with every parameter at its default (R38, R350). -/
def State.reset : State where
  regs := ⟨resetRegister, resetRegister, resetRegister, resetRegister, resetRegister, resetRegister, resetRegister⟩
  sp := resetSp
  pc := resetPc
  flags := ⟨resetFlag, resetFlag, resetFlag, resetFlag, resetFlag⟩
  ie := false
  mem := []
  run := .running
  result := .continued
  ioOut := []
  inCount := 0
  config := resetConfig

end Sys2Proof.Machine
end

