-- ==== Sys2Proof/Machine/Flags.lean ====
section
/-! DEFINITION. The arithmetic and the flag rules of 40_alu_flag_rules.md: operands are read as numbers, the wide
intermediate is exact, and the result is truncated at the end (R7, R120). -/

namespace Sys2Proof.Machine

/-- An 8-bit result with the two carries. -/
structure Alu8 where
  res : Byte
  cy : Bool
  ac : Bool
  deriving DecidableEq, Repr

/-- `Zf(r)` (R110). -/
def zf (r : Byte) : Bool := r == 0

/-- `Sf(r)` (R111). -/
def sf (r : Byte) : Bool := r.getLsbD 7

/-- How many bits of a byte are 1. -/
def bitCount (r : Byte) : Nat :=
  (r.getLsbD 0).toNat + (r.getLsbD 1).toNat + (r.getLsbD 2).toNat + (r.getLsbD 3).toNat +
  (r.getLsbD 4).toNat + (r.getLsbD 5).toNat + (r.getLsbD 6).toNat + (r.getLsbD 7).toNat

/-- `Pf(r)`: even parity (R112). -/
def pf (r : Byte) : Bool := bitCount r % 2 == 0

/-- `ZSP(r)`: write Z, S and P, leave CY and AC (R115). -/
def Flags.zsp (f : Flags) (r : Byte) : Flags := { f with z := zf r, s := sf r, p := pf r }

/-- All five flags of an 8-bit result: `ZSP(res) ; CY <- cy ; AC <- ac`. -/
def Alu8.flags (x : Alu8) : Flags := ⟨zf x.res, sf x.res, pf x.res, x.cy, x.ac⟩

/-- `Add8(a, b, cin)` (R113). -/
def add8 (a b : Byte) (cin : Bool) : Alu8 :=
  let wide := a.toNat + b.toNat + cin.toNat
  { res := BitVec.ofNat 8 wide
    cy := decide (wide > 0xFF)
    ac := decide (a.toNat % 16 + b.toNat % 16 + cin.toNat > 0x0F) }

/-- `Sub8(a, b, bin)`, AC by `AC_SUB_POLARITY` (R114). -/
def sub8 (polarity : AcSubPolarity) (a b : Byte) (bin : Bool) : Alu8 :=
  let wide := (65536 + a.toNat - b.toNat - bin.toNat) % 65536
  let borrow := decide (a.toNat % 16 < b.toNat % 16 + bin.toNat)
  { res := BitVec.ofNat 8 wide
    cy := decide (a.toNat < b.toNat + bin.toNat)
    ac := match polarity with
      | .borrow => borrow
      | .carry => !borrow }

/-- ANA and ANI (R116): CY false, AC by `ANA_AC_MODE`. -/
def and8 (mode : AnaAcMode) (a v : Byte) : Alu8 :=
  { res := a &&& v
    cy := false
    ac := match mode with
      | .orBit3 => (a ||| v).getLsbD 3
      | .zero => false }

/-- XRA and XRI (R116): CY and AC false. -/
def xor8 (a v : Byte) : Alu8 := { res := a ^^^ v, cy := false, ac := false }

/-- ORA and ORI (R116): CY and AC false. -/
def or8 (a v : Byte) : Alu8 := { res := a ||| v, cy := false, ac := false }

/-- `Add16(a, b)`: the sum modulo 65,536 and the carry out of bit 15 (R118). -/
def add16 (a b : Word) : Word × Bool :=
  let wide := a.toNat + b.toNat
  (BitVec.ofNat 16 wide, decide (wide > 0xFFFF))

/-- `Daa(a, cy, ac)` (R121). -/
def daa8 (a : Byte) (cy ac : Bool) : Alu8 :=
  let lo := a.toNat % 16
  let hi := a.toNat / 16
  let fixLow := decide (lo > 9) || ac
  let fixHigh := decide (hi > 9) || cy || (decide (hi ≥ 9) && decide (lo > 9))
  let corr := (if fixLow then 0x06 else 0) + (if fixHigh then 0x60 else 0)
  let sum := add8 a (BitVec.ofNat 8 corr) false
  { res := sum.res, cy := if fixHigh then true else cy, ac := sum.ac }

/-- A bit as the byte 0 or 1. -/
def bitByte (c : Bool) : Byte := BitVec.ofNat 8 c.toNat

/-- RLC: the new A and the new CY (R122, R203). -/
def rotateLeft (a : Byte) : Byte × Bool := ((a <<< 1) ||| bitByte (a.getLsbD 7), a.getLsbD 7)

/-- RRC (R122, R204). -/
def rotateRight (a : Byte) : Byte × Bool := ((a >>> 1) ||| (bitByte (a.getLsbD 0) <<< 7), a.getLsbD 0)

/-- RAL: the old CY comes into bit 0 (R122, R205). -/
def rotateLeftCarry (a : Byte) (cy : Bool) : Byte × Bool := ((a <<< 1) ||| bitByte cy, a.getLsbD 7)

/-- RAR: the old CY comes into bit 7 (R122, R206). -/
def rotateRightCarry (a : Byte) (cy : Bool) : Byte × Bool := ((a >>> 1) ||| (bitByte cy <<< 7), a.getLsbD 0)

/-- `FlagByte`, from bit 7: S Z 0 AC 0 P 1 CY (R32). -/
def flagByte (f : Flags) : Byte :=
  BitVec.ofNat 8 (f.s.toNat * 128 + f.z.toNat * 64 + f.ac.toNat * 16 + f.p.toNat * 4 + 2 + f.cy.toNat)

/-- The flags a popped byte gives; its bits 5, 3 and 1 are discarded (R32). -/
def flagsOfByte (b : Byte) : Flags :=
  ⟨b.getLsbD 6, b.getLsbD 7, b.getLsbD 2, b.getLsbD 0, b.getLsbD 4⟩

end Sys2Proof.Machine
end

