-- ==== Sys2Proof/WellFormed.lean ====
section
/-! DEFINITION. Which terms of `Instr` are instructions: the operand limits of the rules that the types do not carry. -/

namespace Sys2Proof

/-- LDAX and STAX take the pairs B and D only (R25, R151, R152). -/
def RegPair.isIndirect : RegPair → Bool
  | .b => true
  | .d => true
  | .h => false
  | .sp => false

/-- PUSH rp and POP rp take B, D and H: code 11 is PSW there (R25, R261, R263). -/
def RegPair.isStacked : RegPair → Bool
  | .b => true
  | .d => true
  | .h => true
  | .sp => false

/-- The instruction has an encoding in R90. -/
def Instr.wellFormed : Instr → Bool
  | .ldax p => p.isIndirect
  | .stax p => p.isIndirect
  | .pushRp p => p.isStacked
  | .popRp p => p.isStacked
  -- `00xxx000` with xxx = 000 is NOP (R273)
  | .unassignedNop x => x != 0
  -- `11xx1101` with xx = 00 is CALL (R276)
  | .unassignedCall x => x != 0
  | .movRR _ _ | .movRM _ | .movMR _ | .mviR _ _ | .mviM _ | .lxi _ _ => true
  | .lda _ | .sta _ | .lhld _ | .shld _ | .xchg => true
  | .addR _ | .addM | .adi _ | .adcR _ | .adcM | .aci _ => true
  | .subR _ | .subM | .sui _ | .sbbR _ | .sbbM | .sbi _ => true
  | .inrR _ | .inrM | .dcrR _ | .dcrM | .inx _ | .dcx _ | .dad _ | .daa => true
  | .anaR _ | .anaM | .ani _ | .xraR _ | .xraM | .xri _ => true
  | .oraR _ | .oraM | .ori _ | .cmpR _ | .cmpM | .cpi _ => true
  | .rlc | .rrc | .ral | .rar | .cma | .cmc | .stc => true
  | .jmp _ | .jnz _ | .jz _ | .jnc _ | .jc _ | .jpo _ | .jpe _ | .jp _ | .jm _ => true
  | .call _ | .cnz _ | .cz _ | .cnc _ | .cc _ | .cpo _ | .cpe _ | .cp _ | .cm _ => true
  | .ret | .rnz | .rz | .rnc | .rc | .rpo | .rpe | .rp | .rm | .rst _ | .pchl => true
  | .pushPsw | .popPsw | .xthl | .sphl | .ei | .di | .hlt | .nop | .inp _ | .out _ => true
  | .unassignedJmp | .unassignedRet => true

end Sys2Proof
end

