-- ==== Sys2Proof/Decode.lean ====
section
/-! DEFINITION. Decoding and encoding (30_encoding.md). The decoder reads the opcode byte by the fields of R82, column by
column of the map R89; the encoder is written from the bit patterns of R90. Both follow the spec's opcode map, which the
spec takes from general knowledge of the Intel 8080 (D1, D2; log 1). -/

namespace Sys2Proof

/-! ## Byte order (R6, R52): the low byte of a 16-bit value is the byte at the lower address -/

/-- `hi8 : lo8`, the 16-bit value `hi8 * 256 + lo8` (R6). -/
def mkWord (hi lo : Byte) : Word := BitVec.ofNat 16 (hi.toNat * 256 + lo.toNat)

/-- `v[7:0]`. -/
def loByte (v : Word) : Byte := BitVec.ofNat 8 v.toNat

/-- `v[15:8]`. -/
def hiByte (v : Word) : Byte := BitVec.ofNat 8 (v.toNat / 256)

/-! ## Codes (R23, R25, R221) -/

/-- What the three-bit register code selects (R23). -/
def Loc.ofCode : Fin 8 → Loc
  | 0 => .reg .b
  | 1 => .reg .c
  | 2 => .reg .d
  | 3 => .reg .e
  | 4 => .reg .h
  | 5 => .reg .l
  | 6 => .m
  | 7 => .reg .a

/-- The three-bit code of a register (R23). -/
def Reg.code : Reg → Nat
  | .b => 0
  | .c => 1
  | .d => 2
  | .e => 3
  | .h => 4
  | .l => 5
  | .a => 7

/-- The pair a two-bit code selects, SP for code 11 (R25). -/
def RegPair.ofCode : Fin 4 → RegPair
  | 0 => .b
  | 1 => .d
  | 2 => .h
  | 3 => .sp

/-- The two-bit code of a pair (R25). -/
def RegPair.code : RegPair → Nat
  | .b => 0
  | .d => 1
  | .h => 2
  | .sp => 3

/-! ## Fields of the opcode byte (R82) -/

/-- `qq`, bits 7:6, the quadrant. -/
def fieldQq (op : Byte) : Fin 4 := Fin.ofNat 4 (op.toNat / 64)

/-- Bits 5:3: `ddd`, `aaa`, `ccc` or `nnn`, by the rest of the opcode. -/
def fieldDdd (op : Byte) : Fin 8 := Fin.ofNat 8 (op.toNat / 8)

/-- `sss`, bits 2:0. -/
def fieldSss (op : Byte) : Fin 8 := Fin.ofNat 8 op.toNat

/-- `rp`, bits 5:4. -/
def fieldRp (op : Byte) : Fin 4 := Fin.ofNat 4 (op.toNat / 16)

/-- Bit 3, which tells apart the two pair instructions of one column. -/
def fieldBit3 (op : Byte) : Fin 2 := Fin.ofNat 2 (op.toNat / 8)

/-! ## The decoder -/

/-- Quadrant 00: rows 0x to 3x of R89. -/
def decodeMisc (op b2 b3 : Byte) : Instr :=
  match fieldSss op with
  | 0 =>
    match fieldDdd op with
    | 0 => .nop
    | 1 => .unassignedNop 1
    | 2 => .unassignedNop 2
    | 3 => .unassignedNop 3
    | 4 => .unassignedNop 4
    | 5 => .unassignedNop 5
    | 6 => .unassignedNop 6
    | 7 => .unassignedNop 7
  | 1 =>
    match fieldBit3 op with
    | 0 => .lxi (RegPair.ofCode (fieldRp op)) (mkWord b3 b2)
    | 1 => .dad (RegPair.ofCode (fieldRp op))
  | 2 =>
    match fieldDdd op with
    | 0 => .stax .b
    | 1 => .ldax .b
    | 2 => .stax .d
    | 3 => .ldax .d
    | 4 => .shld (mkWord b3 b2)
    | 5 => .lhld (mkWord b3 b2)
    | 6 => .sta (mkWord b3 b2)
    | 7 => .lda (mkWord b3 b2)
  | 3 =>
    match fieldBit3 op with
    | 0 => .inx (RegPair.ofCode (fieldRp op))
    | 1 => .dcx (RegPair.ofCode (fieldRp op))
  | 4 =>
    match Loc.ofCode (fieldDdd op) with
    | .reg r => .inrR r
    | .m => .inrM
  | 5 =>
    match Loc.ofCode (fieldDdd op) with
    | .reg r => .dcrR r
    | .m => .dcrM
  | 6 =>
    match Loc.ofCode (fieldDdd op) with
    | .reg r => .mviR r b2
    | .m => .mviM b2
  | 7 =>
    match fieldDdd op with
    | 0 => .rlc
    | 1 => .rrc
    | 2 => .ral
    | 3 => .rar
    | 4 => .daa
    | 5 => .cma
    | 6 => .stc
    | 7 => .cmc

/-- Quadrant 01: MOV, and HLT in the cell where MOV M,M would be (R91, R96). -/
def decodeMov (op : Byte) : Instr :=
  match Loc.ofCode (fieldDdd op), Loc.ofCode (fieldSss op) with
  | .reg dst, .reg src => .movRR dst src
  | .reg dst, .m => .movRM dst
  | .m, .reg src => .movMR src
  | .m, .m => .hlt

/-- Quadrant 10: accumulator arithmetic and logic on a register or M, by `aaa` (R82). -/
def decodeAlu (op : Byte) : Instr :=
  match fieldDdd op, Loc.ofCode (fieldSss op) with
  | 0, .reg s => .addR s
  | 0, .m => .addM
  | 1, .reg s => .adcR s
  | 1, .m => .adcM
  | 2, .reg s => .subR s
  | 2, .m => .subM
  | 3, .reg s => .sbbR s
  | 3, .m => .sbbM
  | 4, .reg s => .anaR s
  | 4, .m => .anaM
  | 5, .reg s => .xraR s
  | 5, .m => .xraM
  | 6, .reg s => .oraR s
  | 6, .m => .oraM
  | 7, .reg s => .cmpR s
  | 7, .m => .cmpM

/-- Quadrant 11: branch, stack, immediate arithmetic, I/O and control, rows Cx to Fx of R89. -/
def decodeBranch (op b2 b3 : Byte) : Instr :=
  match fieldSss op with
  | 0 =>
    match fieldDdd op with
    | 0 => .rnz
    | 1 => .rz
    | 2 => .rnc
    | 3 => .rc
    | 4 => .rpo
    | 5 => .rpe
    | 6 => .rp
    | 7 => .rm
  | 1 =>
    match fieldDdd op with
    | 0 => .popRp .b
    | 1 => .ret
    | 2 => .popRp .d
    | 3 => .unassignedRet
    | 4 => .popRp .h
    | 5 => .pchl
    | 6 => .popPsw
    | 7 => .sphl
  | 2 =>
    match fieldDdd op with
    | 0 => .jnz (mkWord b3 b2)
    | 1 => .jz (mkWord b3 b2)
    | 2 => .jnc (mkWord b3 b2)
    | 3 => .jc (mkWord b3 b2)
    | 4 => .jpo (mkWord b3 b2)
    | 5 => .jpe (mkWord b3 b2)
    | 6 => .jp (mkWord b3 b2)
    | 7 => .jm (mkWord b3 b2)
  | 3 =>
    match fieldDdd op with
    | 0 => .jmp (mkWord b3 b2)
    | 1 => .unassignedJmp
    | 2 => .out b2
    | 3 => .inp b2
    | 4 => .xthl
    | 5 => .xchg
    | 6 => .di
    | 7 => .ei
  | 4 =>
    match fieldDdd op with
    | 0 => .cnz (mkWord b3 b2)
    | 1 => .cz (mkWord b3 b2)
    | 2 => .cnc (mkWord b3 b2)
    | 3 => .cc (mkWord b3 b2)
    | 4 => .cpo (mkWord b3 b2)
    | 5 => .cpe (mkWord b3 b2)
    | 6 => .cp (mkWord b3 b2)
    | 7 => .cm (mkWord b3 b2)
  | 5 =>
    match fieldDdd op with
    | 0 => .pushRp .b
    | 1 => .call (mkWord b3 b2)
    | 2 => .pushRp .d
    | 3 => .unassignedCall 1
    | 4 => .pushRp .h
    | 5 => .unassignedCall 2
    | 6 => .pushPsw
    | 7 => .unassignedCall 3
  | 6 =>
    match fieldDdd op with
    | 0 => .adi b2
    | 1 => .aci b2
    | 2 => .sui b2
    | 3 => .sbi b2
    | 4 => .ani b2
    | 5 => .xri b2
    | 6 => .ori b2
    | 7 => .cpi b2
  | 7 => .rst (fieldDdd op)

/-- Decode from the opcode byte and the two bytes after it. Total: each of the 256 opcode bytes selects exactly one
instruction, by that byte alone; `b2` and `b3` only supply operand values (R80, R89, R292). -/
def decode (op b2 b3 : Byte) : Instr :=
  match fieldQq op with
  | 0 => decodeMisc op b2 b3
  | 1 => decodeMov op
  | 2 => decodeAlu op
  | 3 => decodeBranch op b2 b3

/-! ## Lengths (R88) -/

/-- The twelve opcode bytes with no documented instruction (R95). -/
def isUnassigned (op : Byte) : Bool :=
  op == 0x08 || op == 0x10 || op == 0x18 || op == 0x20 || op == 0x28 || op == 0x30 || op == 0x38 ||
  op == 0xCB || op == 0xD9 || op == 0xDD || op == 0xED || op == 0xFD

/-- The instruction's length in bytes, from the opcode byte alone (R88). In fault mode an unassigned byte has length 1;
in alias mode the JMP and CALL aliases have length 3. -/
def opcodeLength (mode : UndocMode) (op : Byte) : Nat :=
  if op &&& 0xCF == 0x01 then 3
  else if op == 0x22 || op == 0x2A || op == 0x32 || op == 0x3A then 3
  else if op &&& 0xC7 == 0xC2 || op == 0xC3 then 3
  else if op &&& 0xC7 == 0xC4 || op == 0xCD then 3
  else if op == 0xCB || op == 0xDD || op == 0xED || op == 0xFD then
    match mode with
    | .faulting => 1
    | .aliased => 3
  else if op &&& 0xC7 == 0x06 || op &&& 0xC7 == 0xC6 then 2
  else if op == 0xD3 || op == 0xDB then 2
  else 1

/-- Why a list of bytes is no instruction: it is empty, or it ends inside one. No opcode byte is itself refused. -/
inductive DecodeReject where
  | noBytes
  | truncated (opcode : Byte)
  deriving DecidableEq, Repr

/-- Decode the instruction at the head of a list of bytes and give the bytes after it. The bytes taken are those of
the row's format in opcode_table.json (an unassigned byte is one byte: log 15). -/
def decodeBytes : List Byte → Except DecodeReject (Instr × List Byte)
  | [] => .error .noBytes
  | op :: rest =>
    match opcodeLength .faulting op, rest with
    | 2, b2 :: rest' => .ok (decode op b2 0, rest')
    | 3, b2 :: b3 :: rest' => .ok (decode op b2 b3, rest')
    | 2, [] => .error (.truncated op)
    | 3, _ => .error (.truncated op)
    | _, _ => .ok (decode op 0 0, rest)

/-- The bytes of a table word (bit 0 is the least significant bit of the first byte), with every bit from `nbits` on
zero, laid out at rising addresses up to the longest instruction. -/
def tableBytes (nbits w : Nat) : List Byte :=
  let v := w % 2 ^ nbits
  [BitVec.ofNat 8 v, BitVec.ofNat 8 (v / 256), BitVec.ofNat 8 (v / 65536)]

/-- The instruction the decoder reads from a word of opcode_table.json. -/
def decodeTableWord (nbits w : Nat) : Option Instr :=
  match decodeBytes (tableBytes nbits w) with
  | .ok (i, _) => some i
  | .error _ => none

/-! ## The encoder, from the bit patterns of R90 -/

/-- A pattern's fixed bits with a `ddd` (or `ccc`, `nnn`) field in bits 5:3. -/
def withDdd (pattern code : Nat) : Byte := BitVec.ofNat 8 (pattern + 8 * code)

/-- A pattern's fixed bits with an `sss` field in bits 2:0. -/
def withSss (pattern code : Nat) : Byte := BitVec.ofNat 8 (pattern + code)

/-- A pattern's fixed bits with an `rp` field in bits 5:4. -/
def withRp (pattern code : Nat) : Byte := BitVec.ofNat 8 (pattern + 16 * code)

/-- The opcode byte of an instruction (R90). -/
def opcode : Instr → Byte
  | .nop => 0b00000000
  | .lxi p _ => withRp 0b00000001 p.code
  | .stax p => withRp 0b00000010 p.code
  | .ldax p => withRp 0b00001010 p.code
  | .shld _ => 0b00100010
  | .lhld _ => 0b00101010
  | .sta _ => 0b00110010
  | .lda _ => 0b00111010
  | .inx p => withRp 0b00000011 p.code
  | .dcx p => withRp 0b00001011 p.code
  | .dad p => withRp 0b00001001 p.code
  | .inrR r => withDdd 0b00000100 r.code
  | .inrM => 0b00110100
  | .dcrR r => withDdd 0b00000101 r.code
  | .dcrM => 0b00110101
  | .mviR r _ => withDdd 0b00000110 r.code
  | .mviM _ => 0b00110110
  | .rlc => 0b00000111
  | .rrc => 0b00001111
  | .ral => 0b00010111
  | .rar => 0b00011111
  | .daa => 0b00100111
  | .cma => 0b00101111
  | .stc => 0b00110111
  | .cmc => 0b00111111
  | .unassignedNop x => withDdd 0b00000000 x.val
  | .hlt => 0b01110110
  | .movRR dst src => withDdd (0b01000000 + src.code) dst.code
  | .movRM dst => withDdd 0b01000110 dst.code
  | .movMR s => withSss 0b01110000 s.code
  | .addR s => withSss 0b10000000 s.code
  | .addM => 0b10000110
  | .adcR s => withSss 0b10001000 s.code
  | .adcM => 0b10001110
  | .subR s => withSss 0b10010000 s.code
  | .subM => 0b10010110
  | .sbbR s => withSss 0b10011000 s.code
  | .sbbM => 0b10011110
  | .anaR s => withSss 0b10100000 s.code
  | .anaM => 0b10100110
  | .xraR s => withSss 0b10101000 s.code
  | .xraM => 0b10101110
  | .oraR s => withSss 0b10110000 s.code
  | .oraM => 0b10110110
  | .cmpR s => withSss 0b10111000 s.code
  | .cmpM => 0b10111110
  | .rnz => 0b11000000
  | .rz => 0b11001000
  | .rnc => 0b11010000
  | .rc => 0b11011000
  | .rpo => 0b11100000
  | .rpe => 0b11101000
  | .rp => 0b11110000
  | .rm => 0b11111000
  | .popRp p => withRp 0b11000001 p.code
  | .popPsw => 0b11110001
  | .jnz _ => 0b11000010
  | .jz _ => 0b11001010
  | .jnc _ => 0b11010010
  | .jc _ => 0b11011010
  | .jpo _ => 0b11100010
  | .jpe _ => 0b11101010
  | .jp _ => 0b11110010
  | .jm _ => 0b11111010
  | .jmp _ => 0b11000011
  | .cnz _ => 0b11000100
  | .cz _ => 0b11001100
  | .cnc _ => 0b11010100
  | .cc _ => 0b11011100
  | .cpo _ => 0b11100100
  | .cpe _ => 0b11101100
  | .cp _ => 0b11110100
  | .cm _ => 0b11111100
  | .pushRp p => withRp 0b11000101 p.code
  | .pushPsw => 0b11110101
  | .adi _ => 0b11000110
  | .aci _ => 0b11001110
  | .sui _ => 0b11010110
  | .sbi _ => 0b11011110
  | .ani _ => 0b11100110
  | .xri _ => 0b11101110
  | .ori _ => 0b11110110
  | .cpi _ => 0b11111110
  | .rst n => withDdd 0b11000111 n.val
  | .ret => 0b11001001
  | .call _ => 0b11001101
  | .out _ => 0b11010011
  | .inp _ => 0b11011011
  | .xthl => 0b11100011
  | .pchl => 0b11101001
  | .xchg => 0b11101011
  | .di => 0b11110011
  | .sphl => 0b11111001
  | .ei => 0b11111011
  | .unassignedJmp => 0b11001011
  | .unassignedRet => 0b11011001
  | .unassignedCall x => withRp 0b11001101 x.val

/-- The two operand bytes of a 16-bit operand, low byte first (R81). -/
def wordBytes (v : Word) : List Byte := [loByte v, hiByte v]

/-- The operand bytes after the opcode byte (R81). -/
def operandBytes : Instr → List Byte
  | .mviR _ v | .mviM v => [v]
  | .adi v | .aci v | .sui v | .sbi v | .ani v | .xri v | .ori v | .cpi v => [v]
  | .inp v | .out v => [v]
  | .lxi _ v | .lda v | .sta v | .lhld v | .shld v => wordBytes v
  | .jmp v | .jnz v | .jz v | .jnc v | .jc v | .jpo v | .jpe v | .jp v | .jm v => wordBytes v
  | .call v | .cnz v | .cz v | .cnc v | .cc v | .cpo v | .cpe v | .cp v | .cm v => wordBytes v
  | .movRR _ _ | .movRM _ | .movMR _ | .ldax _ | .stax _ | .xchg => []
  | .addR _ | .addM | .adcR _ | .adcM | .subR _ | .subM | .sbbR _ | .sbbM => []
  | .inrR _ | .inrM | .dcrR _ | .dcrM | .inx _ | .dcx _ | .dad _ | .daa => []
  | .anaR _ | .anaM | .xraR _ | .xraM | .oraR _ | .oraM | .cmpR _ | .cmpM => []
  | .rlc | .rrc | .ral | .rar | .cma | .cmc | .stc => []
  | .ret | .rnz | .rz | .rnc | .rc | .rpo | .rpe | .rp | .rm | .rst _ | .pchl => []
  | .pushRp _ | .pushPsw | .popRp _ | .popPsw | .xthl | .sphl | .ei | .di | .hlt | .nop => []
  | .unassignedNop _ | .unassignedJmp | .unassignedRet | .unassignedCall _ => []

/-- The bytes of an instruction, lowest address first (R81, R90). -/
def encode (i : Instr) : List Byte := opcode i :: operandBytes i

end Sys2Proof
end

