-- ==== Sys2Proof/Machine/Ops.lean ====
section
/-! DEFINITION. The named operations over registers, memory, the stack, the program counter and the run state, with
fault entry as one shared operation. -/

namespace Sys2Proof.Machine

/-! ## Registers -/

/-- `x[c]` (R8, R21). -/
def Regs.get (x : Regs) : Reg → Byte
  | .a => x.a
  | .b => x.b
  | .c => x.c
  | .d => x.d
  | .e => x.e
  | .h => x.h
  | .l => x.l

/-- `x[c] <- v` (R8, R21). -/
def Regs.set (x : Regs) (r : Reg) (v : Byte) : Regs :=
  match r with
  | .a => { x with a := v }
  | .b => { x with b := v }
  | .c => { x with c := v }
  | .d => { x with d := v }
  | .e => { x with e := v }
  | .h => { x with h := v }
  | .l => { x with l := v }

/-- Read a register. -/
def State.reg (s : State) (r : Reg) : Byte := s.regs.get r

/-- Write a register. -/
def State.setReg (s : State) (r : Reg) (v : Byte) : State := { s with regs := s.regs.set r v }

/-- `SP <- v`. -/
def State.setSp (s : State) (v : Word) : State := { s with sp := v }

/-- `PC <- v`, a control transfer (R28). -/
def State.setPc (s : State) (v : Word) : State := { s with pc := v }

/-- The length-based advance `PC <- (pc0 + length) mod 65536` (R28). Meanings apply it last, when PC is still pc0. -/
def State.advance (s : State) (length : Word) : State := s.setPc (s.pc + length)

/-- Write all five flags. -/
def State.setFlags (s : State) (f : Flags) : State := { s with flags := f }

/-- `CY <- v`, the other flags unchanged. -/
def State.setCy (s : State) (v : Bool) : State := s.setFlags { s.flags with cy := v }

/-- `IE <- v` (R33). -/
def State.setIe (s : State) (v : Bool) : State := { s with ie := v }

/-! ## Memory (R50 to R53) -/

/-- The byte at an address. -/
def Memory.read : Memory → Nat → Byte
  | [], _ => unlistedByte
  | (k, v) :: rest, a => if k = a then v else Memory.read rest a

/-- Put an entry before the first larger address. -/
def Memory.place : Memory → Nat → Byte → Memory
  | [], a, v => [(a, v)]
  | (k, w) :: rest, a, v => if a < k then (a, v) :: (k, w) :: rest else (k, w) :: Memory.place rest a v

/-- Write the byte at an address: its old entry goes, and a new one is placed unless the byte is what an unlisted
address reads as. -/
def Memory.write (m : Memory) (a : Nat) (v : Byte) : Memory :=
  let others := m.filter fun cell => cell.1 != a
  if v = unlistedByte then others else Memory.place others a v

/-- Canonical from an address on: addresses strictly rising, below 65,536, no entry that an unlisted address reads as. -/
def Memory.wfFrom : Nat → Memory → Bool
  | _, [] => true
  | low, (k, v) :: rest => decide (low ≤ k) && decide (k < 65536) && v != unlistedByte && Memory.wfFrom (k + 1) rest

/-- Memory is in its canonical form: equal memories are equal lists (log 18). -/
def Memory.wf (m : Memory) : Bool := Memory.wfFrom 0 m

/-- `MemRead(a, 1)` (R8, R50). -/
def State.readMem (s : State) (a : Word) : Byte := Memory.read s.mem a.toNat

/-- `MemWrite(a, 1, v)` (R8, R50). -/
def State.writeMem (s : State) (a : Word) (v : Byte) : State := { s with mem := Memory.write s.mem a.toNat v }

/-- `MemRead(a, 2)`: the byte at the lower address is the low byte, and the second address wraps (R8, R52, R53). -/
def State.readWord (s : State) (a : Word) : Word := mkWord (s.readMem (a + 1)) (s.readMem a)

/-- `MemWrite(a, 2, v)` (R8, R52, R53). -/
def State.writeWord (s : State) (a : Word) (v : Word) : State :=
  (s.writeMem a (loByte v)).writeMem (a + 1) (hiByte v)

/-! ## Register pairs (R22, R25) -/

/-- `PairRead(p)`. -/
def State.pair (s : State) : RegPair → Word
  | .b => mkWord (s.reg .b) (s.reg .c)
  | .d => mkWord (s.reg .d) (s.reg .e)
  | .h => mkWord (s.reg .h) (s.reg .l)
  | .sp => s.sp

/-- `PairWrite(p, v)`. -/
def State.setPair (s : State) (p : RegPair) (v : Word) : State :=
  match p with
  | .b => (s.setReg .b (hiByte v)).setReg .c (loByte v)
  | .d => (s.setReg .d (hiByte v)).setReg .e (loByte v)
  | .h => (s.setReg .h (hiByte v)).setReg .l (loByte v)
  | .sp => s.setSp v

/-- `H : L`, the address of the operand M (R24). -/
def State.hl (s : State) : Word := s.pair .h

/-! ## The stack (R59 to R61) -/

/-- `Push16(v)`: high byte at SP-1, low byte at SP-2, SP decremented by 2 (R60). -/
def State.push16 (s : State) (v : Word) : State :=
  ((s.writeMem (s.sp - 1) (hiByte v)).writeMem (s.sp - 2) (loByte v)).setSp (s.sp - 2)

/-- The value `Pop16()` returns: low byte at SP, high byte at SP+1 (R61). -/
def State.top16 (s : State) : Word := s.readWord s.sp

/-- What `Pop16()` does to the state: SP incremented by 2 (R61). -/
def State.pop16 (s : State) : State := s.setSp (s.sp + 2)

/-! ## Input and output (R36, R68) -/

/-- `io_out <- io_out ++ [(port, v)]`. -/
def State.emit (s : State) (port v : Byte) : State := { s with ioOut := s.ioOut ++ [(port, v)] }

/-- `in_count <- in_count + 1`. -/
def State.countIn (s : State) : State := { s with inCount := s.inCount + 1 }

/-! ## The run state and fault entry -/

/-- Enter Halted with the result of the step (R35, R290). -/
def State.stop (s : State) (r : StepResult) : State := { s with run := .halted, result := r }

/-- `raise UnknownOpcode(op, pc0)` (R311): fault entry as R313 gives it, "`run <- Halted`; the step returns the result;
nothing else changes". There is no return from it: "there is no return-from-trap instruction and no handler" (R317). -/
def State.raiseUnknown (s : State) (op : Byte) : State := s.stop (.unknownOpcode op s.pc)

/-- `raise UnimplementedOpcode(op, pc0)` (R312), the same fault entry (R313). -/
def State.raiseUnimplemented (s : State) (op : Byte) : State := s.stop (.unimplementedOpcode op s.pc)

end Sys2Proof.Machine
end

