-- ==== Sys2Proof/Machine/Operands.lean ====
section
/-! DEFINITION. The operand forms: register or M by its code (R24), the immediate bytes (R87), the condition (R221). -/

namespace Sys2Proof.Machine

/-- `RegRead(c)`: a register, or the byte at H:L as H and L are when the access is made (R24). -/
def State.readLoc (s : State) : Loc → Byte
  | .reg r => s.reg r
  | .m => s.readMem s.hl

/-- `RegWrite(c, v)` (R24). -/
def State.writeLoc (s : State) (loc : Loc) (v : Byte) : State :=
  match loc with
  | .reg r => s.setReg r v
  | .m => s.writeMem s.hl v

/-- `b2`, the byte at pc0 + 1 (R8, R87). -/
def State.operand2 (s : State) : Byte := s.readMem (s.pc + 1)

/-- `b3`, the byte at pc0 + 2 (R8, R87). -/
def State.operand3 (s : State) : Byte := s.readMem (s.pc + 2)

/-- `b3 : b2`, the 16-bit operand in the instruction stream (R87). -/
def State.operand16 (s : State) : Word := mkWord s.operand3 s.operand2

/-- `Cond(ccc)` (R221). -/
def Flags.holds (f : Flags) : Cond → Bool
  | .nz => !f.z
  | .z => f.z
  | .nc => !f.cy
  | .c => f.cy
  | .po => !f.p
  | .pe => f.p
  | .p => !f.s
  | .m => f.s

end Sys2Proof.Machine
end

