-- ==== Sys2Proof/Machine/Alu.lean ====
section
/-! DEFINITION. What the arithmetic and logical instructions share: writing an 8-bit result and its flags. -/

namespace Sys2Proof.Machine

/-- `A <- res ; ZSP(res) ; CY <- cy ; AC <- ac`, then the length-based advance. -/
def State.accumulate (s : State) (x : Alu8) (length : Word) : State :=
  ((s.setReg .a x.res).setFlags x.flags).advance length

/-- `ZSP(res) ; CY <- cy ; AC <- ac`, A not written (R200), then the advance. -/
def State.compare (s : State) (x : Alu8) (length : Word) : State := (s.setFlags x.flags).advance length

/-- INR and DCR: the result to its place, `ZSP(res) ; AC <- ac`, CY not written (R117), then the advance by 1. -/
def State.countTo (s : State) (loc : Loc) (x : Alu8) : State :=
  ((s.writeLoc loc x.res).setFlags { x.flags with cy := s.flags.cy }).advance 1

/-- The rotates: A and CY only (R122), then the advance by 1. -/
def State.rotateTo (s : State) (x : Byte × Bool) : State := ((s.setReg .a x.1).setCy x.2).advance 1

/-- `Sub8` with the machine's `AC_SUB_POLARITY`. -/
def State.sub (s : State) (a b : Byte) (bin : Bool) : Alu8 := sub8 s.config.acSubPolarity a b bin

/-- A and an operand, with the machine's `ANA_AC_MODE`. -/
def State.and (s : State) (a v : Byte) : Alu8 := and8 s.config.anaAcMode a v

end Sys2Proof.Machine
end

