-- ==== Sys2Proof/Machine/Arithmetic.lean ====
section
/-! DEFINITION. The arithmetic instructions (42_arithmetic.md): no fault, no overflow trap (R160). -/

namespace Sys2Proof.Machine

/-- ADD r (R161). -/
def execAddR (src : Reg) (s : State) : Result := .next (s.accumulate (add8 (s.reg .a) (s.reg src) false) 1)

/-- ADD M (R162). -/
def execAddM (s : State) : Result := .next (s.accumulate (add8 (s.reg .a) (s.readLoc .m) false) 1)

/-- ADI d8 (R163). -/
def execAdi (d8 : Byte) (s : State) : Result := .next (s.accumulate (add8 (s.reg .a) d8 false) 2)

/-- ADC r (R164). -/
def execAdcR (src : Reg) (s : State) : Result := .next (s.accumulate (add8 (s.reg .a) (s.reg src) s.flags.cy) 1)

/-- ADC M (R165). -/
def execAdcM (s : State) : Result := .next (s.accumulate (add8 (s.reg .a) (s.readLoc .m) s.flags.cy) 1)

/-- ACI d8 (R166). -/
def execAci (d8 : Byte) (s : State) : Result := .next (s.accumulate (add8 (s.reg .a) d8 s.flags.cy) 2)

/-- SUB r (R167). -/
def execSubR (src : Reg) (s : State) : Result := .next (s.accumulate (s.sub (s.reg .a) (s.reg src) false) 1)

/-- SUB M (R168). -/
def execSubM (s : State) : Result := .next (s.accumulate (s.sub (s.reg .a) (s.readLoc .m) false) 1)

/-- SUI d8 (R169). -/
def execSui (d8 : Byte) (s : State) : Result := .next (s.accumulate (s.sub (s.reg .a) d8 false) 2)

/-- SBB r (R170). -/
def execSbbR (src : Reg) (s : State) : Result := .next (s.accumulate (s.sub (s.reg .a) (s.reg src) s.flags.cy) 1)

/-- SBB M (R171). -/
def execSbbM (s : State) : Result := .next (s.accumulate (s.sub (s.reg .a) (s.readLoc .m) s.flags.cy) 1)

/-- SBI d8 (R172). -/
def execSbi (d8 : Byte) (s : State) : Result := .next (s.accumulate (s.sub (s.reg .a) d8 s.flags.cy) 2)

/-- INR r (R173). -/
def execInrR (r : Reg) (s : State) : Result := .next (s.countTo (.reg r) (add8 (s.reg r) 1 false))

/-- INR M (R174). -/
def execInrM (s : State) : Result := .next (s.countTo .m (add8 (s.readLoc .m) 1 false))

/-- DCR r (R175). -/
def execDcrR (r : Reg) (s : State) : Result := .next (s.countTo (.reg r) (s.sub (s.reg r) 1 false))

/-- DCR M (R176). -/
def execDcrM (s : State) : Result := .next (s.countTo .m (s.sub (s.readLoc .m) 1 false))

/-- INX rp (R177). -/
def execInx (p : RegPair) (s : State) : Result := .next ((s.setPair p (s.pair p + 1)).advance 1)

/-- DCX rp (R178). -/
def execDcx (p : RegPair) (s : State) : Result := .next ((s.setPair p (s.pair p - 1)).advance 1)

/-- DAD rp: HL and CY only (R179, R118). -/
def execDad (p : RegPair) (s : State) : Result :=
  let sum := add16 s.hl (s.pair p)
  .next (((s.setPair .h sum.1).setCy sum.2).advance 1)

/-- DAA (R180). -/
def execDaa (s : State) : Result := .next (s.accumulate (daa8 (s.reg .a) s.flags.cy s.flags.ac) 1)

end Sys2Proof.Machine
end

