-- ==== Sys2Proof/Machine/Branch.lean ====
section
/-! DEFINITION. The branch instructions (44_branch.md): no flag written, no fault (R220). -/

namespace Sys2Proof.Machine

/-- The conditional-jump body (R252). -/
def State.jumpIf (s : State) (cond : Cond) (a16 : Word) : State :=
  if s.flags.holds cond then s.setPc a16 else s.advance 3

/-- A call from an instruction of the given length: push the address after it, then jump (R231, R249). -/
def State.callFrom (s : State) (length target : Word) : State := (s.push16 (s.pc + length)).setPc target

/-- The conditional-call body: no stack access when the condition does not hold (R253). -/
def State.callIf (s : State) (cond : Cond) (a16 : Word) : State :=
  if s.flags.holds cond then s.callFrom 3 a16 else s.advance 3

/-- `PC <- Pop16()` (R240). -/
def State.popPc (s : State) : State := s.pop16.setPc s.top16

/-- The conditional-return body: no stack access when the condition does not hold (R254). -/
def State.returnIf (s : State) (cond : Cond) : State :=
  if s.flags.holds cond then s.popPc else s.advance 1

/-- JMP a16 (R222). -/
def execJmp (a16 : Word) (s : State) : Result := .next (s.setPc a16)

/-- JNZ a16 (R223). -/
def execJnz (a16 : Word) (s : State) : Result := .next (s.jumpIf .nz a16)

/-- JZ a16 (R224). -/
def execJz (a16 : Word) (s : State) : Result := .next (s.jumpIf .z a16)

/-- JNC a16 (R225). -/
def execJnc (a16 : Word) (s : State) : Result := .next (s.jumpIf .nc a16)

/-- JC a16 (R226). -/
def execJc (a16 : Word) (s : State) : Result := .next (s.jumpIf .c a16)

/-- JPO a16 (R227). -/
def execJpo (a16 : Word) (s : State) : Result := .next (s.jumpIf .po a16)

/-- JPE a16 (R228). -/
def execJpe (a16 : Word) (s : State) : Result := .next (s.jumpIf .pe a16)

/-- JP a16 (R229). -/
def execJp (a16 : Word) (s : State) : Result := .next (s.jumpIf .p a16)

/-- JM a16 (R230). -/
def execJm (a16 : Word) (s : State) : Result := .next (s.jumpIf .m a16)

/-- CALL a16 (R231). -/
def execCall (a16 : Word) (s : State) : Result := .next (s.callFrom 3 a16)

/-- CNZ a16 (R232). -/
def execCnz (a16 : Word) (s : State) : Result := .next (s.callIf .nz a16)

/-- CZ a16 (R233). -/
def execCz (a16 : Word) (s : State) : Result := .next (s.callIf .z a16)

/-- CNC a16 (R234). -/
def execCnc (a16 : Word) (s : State) : Result := .next (s.callIf .nc a16)

/-- CC a16 (R235). -/
def execCc (a16 : Word) (s : State) : Result := .next (s.callIf .c a16)

/-- CPO a16 (R236). -/
def execCpo (a16 : Word) (s : State) : Result := .next (s.callIf .po a16)

/-- CPE a16 (R237). -/
def execCpe (a16 : Word) (s : State) : Result := .next (s.callIf .pe a16)

/-- CP a16 (R238). -/
def execCp (a16 : Word) (s : State) : Result := .next (s.callIf .p a16)

/-- CM a16 (R239). -/
def execCm (a16 : Word) (s : State) : Result := .next (s.callIf .m a16)

/-- RET (R240). -/
def execRet (s : State) : Result := .next s.popPc

/-- RNZ (R241). -/
def execRnz (s : State) : Result := .next (s.returnIf .nz)

/-- RZ (R242). -/
def execRz (s : State) : Result := .next (s.returnIf .z)

/-- RNC (R243). -/
def execRnc (s : State) : Result := .next (s.returnIf .nc)

/-- RC (R244). -/
def execRc (s : State) : Result := .next (s.returnIf .c)

/-- RPO (R245). -/
def execRpo (s : State) : Result := .next (s.returnIf .po)

/-- RPE (R246). -/
def execRpe (s : State) : Result := .next (s.returnIf .pe)

/-- RP (R247). -/
def execRp (s : State) : Result := .next (s.returnIf .p)

/-- RM (R248). -/
def execRm (s : State) : Result := .next (s.returnIf .m)

/-- RST n: push pc0 + 1, jump to 8n (R249). -/
def execRst (n : Fin 8) (s : State) : Result := .next (s.callFrom 1 (BitVec.ofNat 16 (8 * n.val)))

/-- PCHL (R250). -/
def execPchl (s : State) : Result := .next (s.setPc s.hl)

end Sys2Proof.Machine
end

