-- ==== Sys2Proof/Machine/DataTransfer.lean ====
section
/-! DEFINITION. The data transfer instructions (41_data_transfer.md): no flag, no fault (R140). -/

namespace Sys2Proof.Machine

/-- MOV r1,r2 (R141). -/
def execMovRR (dst src : Reg) (s : State) : Result := .next ((s.setReg dst (s.reg src)).advance 1)

/-- MOV r,M (R142). -/
def execMovRM (dst : Reg) (s : State) : Result := .next ((s.setReg dst (s.readLoc .m)).advance 1)

/-- MOV M,r (R143). -/
def execMovMR (src : Reg) (s : State) : Result := .next ((s.writeLoc .m (s.reg src)).advance 1)

/-- MVI r,d8 (R144). -/
def execMviR (dst : Reg) (d8 : Byte) (s : State) : Result := .next ((s.setReg dst d8).advance 2)

/-- MVI M,d8 (R145). -/
def execMviM (d8 : Byte) (s : State) : Result := .next ((s.writeLoc .m d8).advance 2)

/-- LXI rp,d16 (R146). -/
def execLxi (p : RegPair) (d16 : Word) (s : State) : Result := .next ((s.setPair p d16).advance 3)

/-- LDA a16 (R147). -/
def execLda (a16 : Word) (s : State) : Result := .next ((s.setReg .a (s.readMem a16)).advance 3)

/-- STA a16 (R148). -/
def execSta (a16 : Word) (s : State) : Result := .next ((s.writeMem a16 (s.reg .a)).advance 3)

/-- LHLD a16: L from a16, H from a16 + 1 (R149). -/
def execLhld (a16 : Word) (s : State) : Result := .next ((s.setPair .h (s.readWord a16)).advance 3)

/-- SHLD a16: L to a16, H to a16 + 1 (R150). -/
def execShld (a16 : Word) (s : State) : Result := .next ((s.writeWord a16 s.hl).advance 3)

/-- LDAX rp (R151). -/
def execLdax (p : RegPair) (s : State) : Result := .next ((s.setReg .a (s.readMem (s.pair p))).advance 1)

/-- STAX rp (R152). -/
def execStax (p : RegPair) (s : State) : Result := .next ((s.writeMem (s.pair p) (s.reg .a)).advance 1)

/-- XCHG (R153). -/
def execXchg (s : State) : Result := .next (((s.setPair .h (s.pair .d)).setPair .d s.hl).advance 1)

end Sys2Proof.Machine
end

