-- ==== Sys2Proof/Machine/Logical.lean ====
section
/-! DEFINITION. The logical, compare, rotate and carry instructions (43_logical.md): no fault (R190). -/

namespace Sys2Proof.Machine

/-- ANA r (R191). -/
def execAnaR (src : Reg) (s : State) : Result := .next (s.accumulate (s.and (s.reg .a) (s.reg src)) 1)

/-- ANA M (R192). -/
def execAnaM (s : State) : Result := .next (s.accumulate (s.and (s.reg .a) (s.readLoc .m)) 1)

/-- ANI d8 (R193). -/
def execAni (d8 : Byte) (s : State) : Result := .next (s.accumulate (s.and (s.reg .a) d8) 2)

/-- XRA r (R194). -/
def execXraR (src : Reg) (s : State) : Result := .next (s.accumulate (xor8 (s.reg .a) (s.reg src)) 1)

/-- XRA M (R195). -/
def execXraM (s : State) : Result := .next (s.accumulate (xor8 (s.reg .a) (s.readLoc .m)) 1)

/-- XRI d8 (R196). -/
def execXri (d8 : Byte) (s : State) : Result := .next (s.accumulate (xor8 (s.reg .a) d8) 2)

/-- ORA r (R197). -/
def execOraR (src : Reg) (s : State) : Result := .next (s.accumulate (or8 (s.reg .a) (s.reg src)) 1)

/-- ORA M (R198). -/
def execOraM (s : State) : Result := .next (s.accumulate (or8 (s.reg .a) (s.readLoc .m)) 1)

/-- ORI d8 (R199). -/
def execOri (d8 : Byte) (s : State) : Result := .next (s.accumulate (or8 (s.reg .a) d8) 2)

/-- CMP r (R200). -/
def execCmpR (src : Reg) (s : State) : Result := .next (s.compare (s.sub (s.reg .a) (s.reg src) false) 1)

/-- CMP M (R201). -/
def execCmpM (s : State) : Result := .next (s.compare (s.sub (s.reg .a) (s.readLoc .m) false) 1)

/-- CPI d8 (R202). -/
def execCpi (d8 : Byte) (s : State) : Result := .next (s.compare (s.sub (s.reg .a) d8 false) 2)

/-- RLC (R203). -/
def execRlc (s : State) : Result := .next (s.rotateTo (rotateLeft (s.reg .a)))

/-- RRC (R204). -/
def execRrc (s : State) : Result := .next (s.rotateTo (rotateRight (s.reg .a)))

/-- RAL (R205). -/
def execRal (s : State) : Result := .next (s.rotateTo (rotateLeftCarry (s.reg .a) s.flags.cy))

/-- RAR (R206). -/
def execRar (s : State) : Result := .next (s.rotateTo (rotateRightCarry (s.reg .a) s.flags.cy))

/-- CMA: no flag (R207). -/
def execCma (s : State) : Result := .next ((s.setReg .a (s.reg .a ^^^ 0xFF)).advance 1)

/-- CMC (R208). -/
def execCmc (s : State) : Result := .next ((s.setCy (!s.flags.cy)).advance 1)

/-- STC (R209). -/
def execStc (s : State) : Result := .next ((s.setCy true).advance 1)

end Sys2Proof.Machine
end

