-- ==== Sys2Proof/Machine/StackIoControl.lean ====
section
/-! DEFINITION. The stack, I/O and control instructions and the twelve unassigned opcodes (45_stack_io_control.md). -/

namespace Sys2Proof.Machine

/-- PUSH rp (R261). -/
def execPushRp (p : RegPair) (s : State) : Result := .next ((s.push16 (s.pair p)).advance 1)

/-- PUSH PSW: A and the flag byte (R262). -/
def execPushPsw (s : State) : Result := .next ((s.push16 (mkWord (s.reg .a) (flagByte s.flags))).advance 1)

/-- POP rp (R263). -/
def execPopRp (p : RegPair) (s : State) : Result := .next ((s.pop16.setPair p s.top16).advance 1)

/-- POP PSW: the flags from the byte at SP, A from the byte at SP + 1 (R264). -/
def execPopPsw (s : State) : Result :=
  .next (((s.pop16.setReg .a (hiByte s.top16)).setFlags (flagsOfByte (loByte s.top16))).advance 1)

/-- XTHL: both reads before both writes, SP unchanged (R265). -/
def execXthl (s : State) : Result := .next (((s.writeWord s.sp s.hl).setPair .h s.top16).advance 1)

/-- SPHL (R266). -/
def execSphl (s : State) : Result := .next ((s.setSp s.hl).advance 1)

/-- EI, at once (R267, R358). -/
def execEi (s : State) : Result := .next ((s.setIe true).advance 1)

/-- DI (R268). -/
def execDi (s : State) : Result := .next ((s.setIe false).advance 1)

/-- HLT: PC past the HLT byte, then Halted (R269). -/
def execHlt (s : State) : Result := .next ((s.advance 1).stop .halted)

/-- NOP (R272). -/
def execNop (s : State) : Result := .next (s.advance 1)

/-- IN d8: A from the environment, a free value (R270). -/
def execInp (port : Byte) (s : State) : Result := .next ((s.setReg .a (Config.portIn port s.inCount)).countIn.advance 2)

/-- OUT d8 (R271). -/
def execOut (port : Byte) (s : State) : Result := .next ((s.emit port (s.reg .a)).advance 2)

/-- An unassigned byte: `UnknownOpcode` in fault mode, before any state change, or its alias (R95, R273 to R276). -/
def State.unassigned (s : State) (op : Byte) (alt : State) : State :=
  match s.config.undocMode with
  | .faulting => s.raiseUnknown op
  | .aliased => alt

/-- Unassigned, NOP group (R273). -/
def execUnassignedNop (x : Fin 8) (s : State) : Result := .next (s.unassigned (opcode (.unassignedNop x)) (s.advance 1))

/-- Unassigned, JMP alias; the operand bytes are fetched in alias mode (R274). -/
def execUnassignedJmp (s : State) : Result := .next (s.unassigned (opcode .unassignedJmp) (s.setPc s.operand16))

/-- Unassigned, RET alias (R275). -/
def execUnassignedRet (s : State) : Result := .next (s.unassigned (opcode .unassignedRet) s.popPc)

/-- Unassigned, CALL alias; the operand bytes are fetched in alias mode (R276). -/
def execUnassignedCall (x : Fin 4) (s : State) : Result := .next (s.unassigned (opcode (.unassignedCall x)) (s.callFrom 3 s.operand16))

end Sys2Proof.Machine
end

