-- ==== Sys2Proof/Machine/Fetch.lean ====
section
/-! DEFINITION. Fetching the instruction at PC (R58, R291). -/

namespace Sys2Proof.Machine

/-- `op`, the byte at pc0 (R291). -/
def State.fetchOpcode (s : State) : Byte := s.readMem s.pc

/-- The instruction at PC: the opcode byte and the two bytes after it, the addresses modulo 65,536, read whether or not
the length needs them (R291: reads have no side effect; log 16). -/
def State.fetchInstr (s : State) : Instr := decode s.fetchOpcode s.operand2 s.operand3

/-- The opcode fetched is in `UNIMPL` (R291, R312). -/
def State.fetchesUnimplemented (s : State) : Bool := s.config.unimpl.contains s.fetchOpcode

/-- Store a list of bytes at rising addresses, modulo 65,536 (R53). -/
def State.writeBytes (s : State) (a : Word) : List Byte → State
  | [] => s
  | v :: rest => (s.writeMem a v).writeBytes (a + 1) rest

end Sys2Proof.Machine
end

