-- ==== Sys2Proof/Machine/Step.lean ====
section
/-! DEFINITION. The step function (R291), and storing a table word where it fetches. -/

namespace Sys2Proof.Machine

/-- One fetch-decode-execute cycle (R291). On a Halted state there is no step (R295). The `UNIMPL` check comes first
(R316), and the unassigned-opcode check is in the meanings of the unassigned rows; both come before any state change. -/
def step (s : State) : Host.Outcome State Fault Refusal :=
  match s.run with
  | .halted => .fault .haltedMachine
  | .running =>
    match s.fetchesUnimplemented with
    | true => .next (s.raiseUnimplemented s.fetchOpcode)
    | false => exec s.fetchInstr s

/-- The state with a word of opcode_table.json stored at PC, zero bytes after it up to the longest instruction. It
stands for the host having constructed the state from an image that holds these bytes (log 14). -/
def State.withFetchWord (s : State) (nbits w : Nat) : State := s.writeBytes s.pc (tableBytes nbits w)

end Sys2Proof.Machine
end

