-- ==== Sys2Proof/Machine/Construct.lean ====
section
/-! DEFINITION. Construction, the only reset (70_reset_and_hazards.md R350): the state from an image and the start
parameters of R5. -/

namespace Sys2Proof.Machine

/-- The size of memory in bytes (R5, R50). -/
def memorySize : Nat := 65536

/-- The start parameters: `REG_INIT`, `FLAG_INIT`, `MEM_TAIL`, `RESET_PC`, and the parameters a step reads (R5). -/
structure StartParams where
  regs : Regs
  flags : Flags
  memTail : Nat → Byte
  resetPc : Word
  config : Config

/-- The spec's defaults (R5, D3 to D7, D11, D13). -/
def defaultStart : StartParams where
  regs := State.reset.regs
  flags := State.reset.flags
  memTail := fun _ => unlistedByte
  resetPc := State.reset.pc
  config := State.reset.config

/-- Why construction yields no state (R314, R352). -/
inductive ConstructError where
  | imageTooLarge
  deriving DecidableEq, Repr

/-- The canonical memory in which each address reads as the given function says. -/
def Memory.ofBytes (f : Nat → Byte) : Memory :=
  (List.range memorySize).filterMap fun a => if f a = unlistedByte then none else some (a, f a)

/-- `new(image)` (R350): byte i of the image at address i, `MEM_TAIL` beyond it. -/
def construct (p : StartParams) (image : List Byte) : Except ConstructError State :=
  if image.length > memorySize then .error .imageTooLarge
  else .ok
    { regs := p.regs
      sp := resetSp
      pc := p.resetPc
      flags := p.flags
      ie := false
      mem := Memory.ofBytes fun a => image.getD a (p.memTail a)
      run := .running
      result := .continued
      ioOut := []
      inCount := 0
      config := p.config }

end Sys2Proof.Machine
end

