-- ==== Sys2Proof/Safety.lean ====
section
/-! DEFINITION. What counts as a safe run, and the vocabulary the statements use: the machine's invariant, how a run
ends (R296), and what a step leaves unchanged. -/

namespace Sys2Proof.Machine

/-! ## The invariant (R35, R37) -/

/-- What the recorded result says of a state in which the machine halted: after HLT, PC is one past the HLT byte
(R269, R296); after a fault, PC is still at the offending byte, which is the payload's, and the byte is one that raises
that fault (R311, R312, R313). -/
def State.resultAgrees (s : State) : Prop :=
  match s.result with
  | .continued => s.run = .running
  | .halted => s.run = .halted ∧ s.readMem (s.pc - 1) = 0x76
  | .unimplementedOpcode byte pc =>
    s.run = .halted ∧ pc = s.pc ∧ byte = s.readMem s.pc ∧ byte ∈ s.config.unimpl
  | .unknownOpcode byte pc =>
    s.run = .halted ∧ pc = s.pc ∧ byte = s.readMem s.pc ∧ isUnassigned byte = true ∧ s.config.undocMode = .faulting

/-- The machine's invariant: memory is in its canonical form, and the run state and the recorded result agree. The rest
of R37 (widths, two run states) holds by the types. -/
def State.Inv (s : State) : Prop := s.mem.wf = true ∧ s.resultAgrees

/-! ## How a run ends (R296) -/

/-- The normal end: the machine halted on HLT. -/
def State.endedNormally (s : State) : Bool := s.run == .halted && s.result == .halted

/-- The abnormal end: a step reported a fault. -/
def State.endedInFault (s : State) : Bool := s.run == .halted && s.result != .halted

/-- A safe state: the machine runs, or it halted normally. -/
def State.safe (s : State) : Bool := s.run == .running || s.endedNormally

/-- Run to completion under fuel: the state in which a step first gave a result other than `Continued`, or `none` when
the fuel runs out first (R296: a run may be infinite). -/
def runToEnd : Nat → State → Option State
  | 0, s => if s.run = .halted then some s else none
  | fuel + 1, s =>
    match s.run with
    | .halted => some s
    | .running =>
      match step s with
      | .next t => runToEnd fuel t
      | .fault _ => none
      | .refused _ => none

/-! ## What an instruction leaves unchanged -/

/-- Every register outside the list is unchanged. -/
def KeepsRegsBut (rs : List Reg) (s t : State) : Prop := ∀ r, r ∉ rs → t.reg r = s.reg r

/-- Every byte of memory outside the list of addresses is unchanged. -/
def KeepsMemBut (stored : List Word) (s t : State) : Prop := ∀ a, a ∉ stored → t.readMem a = s.readMem a

/-- Memory holds each of the bytes listed at the address listed with it. -/
def HoldsBytes (cells : List (Word × Byte)) (t : State) : Prop := ∀ a v, (a, v) ∈ cells → t.readMem a = v

/-- Every byte of memory is unchanged. -/
def KeepsMem (s t : State) : Prop := ∀ a, t.readMem a = s.readMem a

/-- Everything beside registers, flags, SP, PC and memory is unchanged. -/
def KeepsControl (s t : State) : Prop :=
  t.ie = s.ie ∧ t.run = s.run ∧ t.result = s.result ∧ t.ioOut = s.ioOut ∧ t.inCount = s.inCount ∧ t.config = s.config

/-- The bytes an instruction stores, each with its address, in the order of its stores, with the expressions its meaning
uses: MOV M,r, MVI M, STA, SHLD and STAX (R143, R145, R148, R150, R152), INR M and DCR M (R174, R176), a taken call and RST
(R231 to R239, R249, R276), PUSH (R261, R262) and XTHL (R265), the low byte of a word at the lower address (R52).
Every other instruction stores nothing. -/
def storedBytes (i : Instr) (s : State) : List (Word × Byte) :=
  let pushed (v : Word) := [(s.sp - 1, hiByte v), (s.sp - 2, loByte v)]
  let callIf (cond : Cond) := if s.flags.holds cond then pushed (s.pc + 3) else []
  match i with
  | .movMR src => [(s.hl, s.reg src)]
  | .mviM d8 => [(s.hl, d8)]
  | .inrM => [(s.hl, s.readMem s.hl + 1)]
  | .dcrM => [(s.hl, s.readMem s.hl - 1)]
  | .sta a => [(a, s.reg .a)]
  | .shld a => [(a, s.reg .l), (a + 1, s.reg .h)]
  | .stax p => [(s.pair p, s.reg .a)]
  | .xthl => [(s.sp, s.reg .l), (s.sp + 1, s.reg .h)]
  | .pushRp p => pushed (s.pair p)
  | .pushPsw => pushed (mkWord (s.reg .a) (flagByte s.flags))
  | .call _ => pushed (s.pc + 3)
  | .rst _ => pushed (s.pc + 1)
  | .cnz _ => callIf .nz
  | .cz _ => callIf .z
  | .cnc _ => callIf .nc
  | .cc _ => callIf .c
  | .cpo _ => callIf .po
  | .cpe _ => callIf .pe
  | .cp _ => callIf .p
  | .cm _ => callIf .m
  | .unassignedCall _ =>
    match s.config.undocMode with
    | .faulting => []
    | .aliased => pushed (s.pc + 3)
  | .movRR _ _ | .movRM _ | .mviR _ _ | .lxi _ _ | .lda _ | .lhld _ | .ldax _ | .xchg => []
  | .addR _ | .addM | .adi _ | .adcR _ | .adcM | .aci _ => []
  | .subR _ | .subM | .sui _ | .sbbR _ | .sbbM | .sbi _ => []
  | .inrR _ | .dcrR _ | .inx _ | .dcx _ | .dad _ | .daa => []
  | .anaR _ | .anaM | .ani _ | .xraR _ | .xraM | .xri _ => []
  | .oraR _ | .oraM | .ori _ | .cmpR _ | .cmpM | .cpi _ => []
  | .rlc | .rrc | .ral | .rar | .cma | .cmc | .stc => []
  | .jmp _ | .jnz _ | .jz _ | .jnc _ | .jc _ | .jpo _ | .jpe _ | .jp _ | .jm _ => []
  | .ret | .rnz | .rz | .rnc | .rc | .rpo | .rpe | .rp | .rm | .pchl => []
  | .popRp _ | .popPsw | .sphl | .ei | .di | .hlt | .nop | .inp _ | .out _ => []
  | .unassignedNop _ | .unassignedJmp | .unassignedRet => []

/-- The addresses an instruction stores to, in the order of its stores. -/
def storedAddresses (i : Instr) (s : State) : List Word := (storedBytes i s).map Prod.fst

/-- Which flags an instruction writes, as the rows of the table R119: Z, S, P, CY, AC. -/
def writesFlags : Instr → Flags
  | .addR _ | .addM | .adi _ | .adcR _ | .adcM | .aci _ => ⟨true, true, true, true, true⟩
  | .subR _ | .subM | .sui _ | .sbbR _ | .sbbM | .sbi _ => ⟨true, true, true, true, true⟩
  | .cmpR _ | .cmpM | .cpi _ => ⟨true, true, true, true, true⟩
  | .anaR _ | .anaM | .ani _ | .xraR _ | .xraM | .xri _ | .oraR _ | .oraM | .ori _ => ⟨true, true, true, true, true⟩
  | .inrR _ | .inrM | .dcrR _ | .dcrM => ⟨true, true, true, false, true⟩
  | .daa | .popPsw => ⟨true, true, true, true, true⟩
  | .dad _ | .rlc | .rrc | .ral | .rar | .stc | .cmc => ⟨false, false, false, true, false⟩
  | .movRR _ _ | .movRM _ | .movMR _ | .mviR _ _ | .mviM _ | .lxi _ _ | .lda _ | .sta _ | .lhld _ | .shld _ =>
    ⟨false, false, false, false, false⟩
  | .ldax _ | .stax _ | .xchg | .inx _ | .dcx _ | .cma => ⟨false, false, false, false, false⟩
  | .jmp _ | .jnz _ | .jz _ | .jnc _ | .jc _ | .jpo _ | .jpe _ | .jp _ | .jm _ => ⟨false, false, false, false, false⟩
  | .call _ | .cnz _ | .cz _ | .cnc _ | .cc _ | .cpo _ | .cpe _ | .cp _ | .cm _ => ⟨false, false, false, false, false⟩
  | .ret | .rnz | .rz | .rnc | .rc | .rpo | .rpe | .rp | .rm | .rst _ | .pchl => ⟨false, false, false, false, false⟩
  | .pushRp _ | .pushPsw | .popRp _ | .xthl | .sphl | .inp _ | .out _ | .ei | .di | .hlt | .nop =>
    ⟨false, false, false, false, false⟩
  | .unassignedNop _ | .unassignedJmp | .unassignedRet | .unassignedCall _ => ⟨false, false, false, false, false⟩

/-- The instruction may write SP (10_state.md section 4): LXI, INX and DCX of SP, SPHL, and every push and pop, the
conditional ones and the CALL and RET aliases among them. XTHL uses SP without changing it. -/
def writesSp : Instr → Bool
  | .lxi p _ | .inx p | .dcx p => p == .sp
  | .sphl | .pushRp _ | .pushPsw | .popRp _ | .popPsw => true
  | .call _ | .cnz _ | .cz _ | .cnc _ | .cc _ | .cpo _ | .cpe _ | .cp _ | .cm _ | .rst _ => true
  | .ret | .rnz | .rz | .rnc | .rc | .rpo | .rpe | .rp | .rm => true
  | .unassignedRet | .unassignedCall _ => true
  | .movRR _ _ | .movRM _ | .movMR _ | .mviR _ _ | .mviM _ | .lda _ | .sta _ | .lhld _ | .shld _ => false
  | .ldax _ | .stax _ | .xchg => false
  | .addR _ | .addM | .adi _ | .adcR _ | .adcM | .aci _ => false
  | .subR _ | .subM | .sui _ | .sbbR _ | .sbbM | .sbi _ => false
  | .inrR _ | .inrM | .dcrR _ | .dcrM | .dad _ | .daa => false
  | .anaR _ | .anaM | .ani _ | .xraR _ | .xraM | .xri _ => false
  | .oraR _ | .oraM | .ori _ | .cmpR _ | .cmpM | .cpi _ => false
  | .rlc | .rrc | .ral | .rar | .cma | .cmc | .stc => false
  | .jmp _ | .jnz _ | .jz _ | .jnc _ | .jc _ | .jpo _ | .jpe _ | .jp _ | .jm _ | .pchl => false
  | .xthl | .ei | .di | .hlt | .nop | .inp _ | .out _ | .unassignedNop _ | .unassignedJmp => false

/-- The target of a control transfer the instruction makes in this state; `none` where it makes none, and the
length-based advance applies (R28). -/
def transferTarget (i : Instr) (s : State) : Option Word :=
  let whenHolds (cond : Cond) (target : Word) := if s.flags.holds cond then some target else none
  let stacked := mkWord (s.readMem (s.sp + 1)) (s.readMem s.sp)
  let inAliasMode (target : Word) :=
    match s.config.undocMode with
    | .faulting => none
    | .aliased => some target
  match i with
  | .jmp a | .call a => some a
  | .jnz a | .cnz a => whenHolds .nz a
  | .jz a | .cz a => whenHolds .z a
  | .jnc a | .cnc a => whenHolds .nc a
  | .jc a | .cc a => whenHolds .c a
  | .jpo a | .cpo a => whenHolds .po a
  | .jpe a | .cpe a => whenHolds .pe a
  | .jp a | .cp a => whenHolds .p a
  | .jm a | .cm a => whenHolds .m a
  | .ret => some stacked
  | .rnz => whenHolds .nz stacked
  | .rz => whenHolds .z stacked
  | .rnc => whenHolds .nc stacked
  | .rc => whenHolds .c stacked
  | .rpo => whenHolds .po stacked
  | .rpe => whenHolds .pe stacked
  | .rp => whenHolds .p stacked
  | .rm => whenHolds .m stacked
  | .rst n => some (BitVec.ofNat 16 (8 * n.val))
  | .pchl => some (mkWord (s.reg .h) (s.reg .l))
  | .unassignedJmp | .unassignedCall _ => inAliasMode (mkWord (s.readMem (s.pc + 2)) (s.readMem (s.pc + 1)))
  | .unassignedRet => inAliasMode stacked
  | .movRR _ _ | .movRM _ | .movMR _ | .mviR _ _ | .mviM _ | .lxi _ _ | .lda _ | .sta _ | .lhld _ | .shld _ => none
  | .ldax _ | .stax _ | .xchg => none
  | .addR _ | .addM | .adi _ | .adcR _ | .adcM | .aci _ => none
  | .subR _ | .subM | .sui _ | .sbbR _ | .sbbM | .sbi _ => none
  | .inrR _ | .inrM | .dcrR _ | .dcrM | .inx _ | .dcx _ | .dad _ | .daa => none
  | .anaR _ | .anaM | .ani _ | .xraR _ | .xraM | .xri _ => none
  | .oraR _ | .oraM | .ori _ | .cmpR _ | .cmpM | .cpi _ => none
  | .rlc | .rrc | .ral | .rar | .cma | .cmc | .stc => none
  | .pushRp _ | .pushPsw | .popRp _ | .popPsw | .xthl | .sphl | .ei | .di | .hlt | .nop | .inp _ | .out _ => none
  | .unassignedNop _ => none

/-- The step of a running machine reports a fault: the byte at PC is in `UNIMPL`, or unassigned in fault mode (R310). -/
def State.faultsAtDecode (s : State) : Prop :=
  s.readMem s.pc ∈ s.config.unimpl ∨ isUnassigned (s.readMem s.pc) = true ∧ s.config.undocMode = .faulting

/-! ## The shapes of the results -/

/-- Registers outside the list, SP, memory and control state are unchanged. -/
def ChangesOnlyRegs (rs : List Reg) (s t : State) : Prop :=
  KeepsRegsBut rs s t ∧ t.sp = s.sp ∧ KeepsMem s t ∧ KeepsControl s t

/-- Z, S and P are those of an 8-bit result: zero, bit 7, an even number of 1 bits (R110, R111, R112). -/
def FlagsOfResult (r : Byte) (f : Flags) : Prop :=
  (f.z = true ↔ r.toNat = 0) ∧ (f.s = true ↔ 128 ≤ r.toNat) ∧
  (f.p = true ↔ ((List.range 8).filter fun k => r.getLsbD k).length % 2 = 0)

/-- The byte at H:L. -/
def State.atHl (s : State) : Byte := s.readMem (mkWord (s.reg .h) (s.reg .l))

/-- An accumulator instruction completes: A becomes a value the predicate allows together with CY and AC, Z, S and P
are those of that value, and nothing else but PC changes. -/
def Accumulates (i : Instr) (s : State) (length : Word) (allowed : Byte → Bool → Bool → Prop) : Prop :=
  ∃ t, exec i s = .next t ∧ allowed (t.reg .a) t.flags.cy t.flags.ac ∧ FlagsOfResult (t.reg .a) t.flags ∧
    t.pc = s.pc + length ∧ ChangesOnlyRegs [.a] s t

/-- A plus a value plus a carry, truncated to 8 bits, with the carries out of bits 7 and 3 (R113). -/
def IsSum (a v : Byte) (cin : Bool) (r : Byte) (cy ac : Bool) : Prop :=
  r.toNat = (a.toNat + v.toNat + cin.toNat) % 256 ∧ (cy = true ↔ 255 < a.toNat + v.toNat + cin.toNat) ∧
  (ac = true ↔ 15 < a.toNat % 16 + v.toNat % 16 + cin.toNat)

/-- A minus a value minus a borrow, truncated to 8 bits, with the borrow in CY and AC by the polarity (R114). -/
def IsDifference (polarity : AcSubPolarity) (a v : Byte) (bin : Bool) (r : Byte) (cy ac : Bool) : Prop :=
  (r.toNat + v.toNat + bin.toNat) % 256 = a.toNat ∧ (cy = true ↔ a.toNat < v.toNat + bin.toNat) ∧
  (polarity = .borrow → (ac = true ↔ a.toNat % 16 < v.toNat % 16 + bin.toNat)) ∧
  (polarity = .carry → (ac = true ↔ ¬ a.toNat % 16 < v.toNat % 16 + bin.toNat))

/-- An instruction that only moves data completes: the state after it, with flags unchanged, is as described. -/
def Moves (i : Instr) (s : State) (length : Word) (described : State → Prop) : Prop :=
  ∃ t, exec i s = .next t ∧ described t ∧ t.flags = s.flags ∧ t.pc = s.pc + length ∧ KeepsControl s t

/-- A jump completes: PC is the target when taken, else past the instruction; nothing else changes. -/
def Jumps (i : Instr) (s : State) (taken : Bool) (target : Word) : Prop :=
  ∃ t, exec i s = .next t ∧ (taken = true → t.pc = target) ∧ (taken = false → t.pc = s.pc + 3) ∧
    t.flags = s.flags ∧ ChangesOnlyRegs [] s t

/-- A call of the given length completes: when taken, the address after it is pushed (high byte at SP-1, low byte at
SP-2) and PC is the target; else only PC moves past it. -/
def Calls (i : Instr) (s : State) (length : Word) (taken : Bool) (target : Word) : Prop :=
  ∃ t, exec i s = .next t ∧
    (taken = true → t.pc = target ∧ t.sp = s.sp - 2 ∧
      mkWord (t.readMem (s.sp - 1)) (t.readMem (s.sp - 2)) = s.pc + length ∧
      KeepsMemBut [s.sp - 1, s.sp - 2] s t) ∧
    (taken = false → t.pc = s.pc + length ∧ t.sp = s.sp ∧ KeepsMem s t) ∧
    KeepsRegsBut [] s t ∧ t.flags = s.flags ∧ KeepsControl s t

/-- A return completes: when taken, PC is the word at SP (low byte at SP, high byte at SP+1) and SP rises by 2; else
only PC moves past it. -/
def Returns (i : Instr) (s : State) (taken : Bool) : Prop :=
  ∃ t, exec i s = .next t ∧
    (taken = true → t.pc = mkWord (s.readMem (s.sp + 1)) (s.readMem s.sp) ∧ t.sp = s.sp + 2) ∧
    (taken = false → t.pc = s.pc + 1 ∧ t.sp = s.sp) ∧
    KeepsRegsBut [] s t ∧ t.flags = s.flags ∧ KeepsMem s t ∧ KeepsControl s t

/-- The two halves of a pair in a state, or SP (R22, R25). -/
def HoldsPair (s : State) (p : RegPair) (hi lo : Byte) : Prop :=
  match p with
  | .b => s.reg .b = hi ∧ s.reg .c = lo
  | .d => s.reg .d = hi ∧ s.reg .e = lo
  | .h => s.reg .h = hi ∧ s.reg .l = lo
  | .sp => s.sp = mkWord hi lo

/-- The registers a pair write may change. -/
def pairHalves : RegPair → List Reg
  | .b => [.b, .c]
  | .d => [.d, .e]
  | .h => [.h, .l]
  | .sp => []

/-- A push completes: the two bytes go to SP-1 and SP-2, SP falls by 2, and nothing else but PC changes. -/
def Pushes (i : Instr) (s : State) (hi lo : Byte) : Prop :=
  Moves i s 1 fun t => t.readMem (s.sp - 1) = hi ∧ t.readMem (s.sp - 2) = lo ∧ t.sp = s.sp - 2 ∧
    KeepsMemBut [s.sp - 1, s.sp - 2] s t ∧ KeepsRegsBut [] s t

end Sys2Proof.Machine
end

