-- ==== Sys2Proof/Certificates/Slice0/Obligations.lean ====
section
/-! DEFINITION. The statements for the provers. Each is a `def Obligations.<Name> : Prop`; the vocabulary (what an
instruction leaves unchanged, the shapes of results) is in Safety.lean. Where a statement rests on a decision of
92_eei_decisions.md, its docstring names the decision and the log entry. The parameters of R5 are fields of the state, so
every statement about every state ranges over them. -/

open Sys2Proof Sys2Proof.Machine

/-! ## Encoding -/

/-- Decode and encode agree, for all 97 constructors and every operand: the bytes of a well-formed instruction, with
anything after them, decode to it and leave what comes after (30_encoding.md; the opcode map is decision D1, log 1). -/
def Obligations.DecodeEncodeRoundTrip : Prop :=
  ∀ (i : Instr) (rest : List Byte), i.wellFormed = true → decodeBytes (encode i ++ rest) = .ok (i, rest)

/-- Every opcode byte decodes, to a well-formed instruction, and encoding it gives the bytes back: as many of the three
as the opcode's length says, so no two opcode bytes share a meaning and no bit is dropped (30_encoding.md sections 1 and
3: the map is total and length is told from the opcode byte alone; D1, log 1). -/
def Obligations.EncodeDecodeRoundTrip : Prop :=
  ∀ op b2 b3 : Byte, (decode op b2 b3).wellFormed = true ∧
    encode (decode op b2 b3) = [op, b2, b3].take (opcodeLength .faulting op)

/-- The two images of R91, with their disassembly, are read as R91 says. -/
def Obligations.SourceImagesDecode : Prop :=
  decodeBytes [0x3E, 0x05, 0x06, 0x03, 0x80, 0x76] = .ok (.mviR .a 5, [0x06, 0x03, 0x80, 0x76]) ∧
  decodeBytes [0x06, 0x03, 0x80, 0x76] = .ok (.mviR .b 3, [0x80, 0x76]) ∧
  decodeBytes [0x80, 0x76] = .ok (.addR .b, [0x76]) ∧
  decodeBytes [0x76] = .ok (.hlt, []) ∧
  decodeBytes [0x3E, 0xFF, 0x3C, 0x76] = .ok (.mviR .a 0xFF, [0x3C, 0x76]) ∧
  decodeBytes [0x3C, 0x76] = .ok (.inrR .a, [0x76])

/-- One word of each family, written out from R90 (decision D1, log 1). -/
def Obligations.FamilyWordsDecode : Prop :=
  decode 0x21 0x34 0x12 = .lxi .h 0x1234 ∧ decode 0x78 0 0 = .movRR .a .b ∧ decode 0xCE 0xBE 0 = .aci 0xBE ∧
  decode 0xB6 0 0 = .oraM ∧ decode 0xCD 0x50 0x00 = .call 0x0050 ∧ decode 0xF5 0 0 = .pushPsw ∧
  decode 0xDB 0x01 0 = .inp 0x01 ∧ decode 0xED 0 0 = .unassignedCall 2

/-! ## The step -/

/-- A step of a running machine runs the instruction its bytes decode to, unless the opcode is in `UNIMPL`; the meaning
itself moves PC past the instruction's bytes (46_execution_engine.md, the step function). -/
def Obligations.StepRunsDecodedInstruction : Prop :=
  ∀ s : State, s.run = .running → s.readMem s.pc ∉ s.config.unimpl →
    step s = exec (decode (s.readMem s.pc) (s.readMem (s.pc + 1)) (s.readMem (s.pc + 2))) s

/-- Where memory holds the bytes of a well-formed instruction at PC (the addresses wrapping), a step of a running
machine is that instruction's meaning (46_execution_engine.md with 30_encoding.md; D1, log 1). -/
def Obligations.StepRunsInstructionInMemory : Prop :=
  ∀ (i : Instr) (s : State), i.wellFormed = true → s.run = .running → opcode i ∉ s.config.unimpl →
    (∀ k v, (encode i)[k]? = some v → s.readMem (s.pc + BitVec.ofNat 16 k) = v) → step s = exec i s

/-- No step exists from a Halted state (46_execution_engine.md; decision D9, log 10). -/
def Obligations.HaltedMachineTakesNoStep : Prop :=
  ∀ s : State, s.run = .halted → step s = .fault .haltedMachine ∧ ∀ t, step s ≠ .next t

/-- R290: a step of a running machine fetches the opcode at PC and applies what it is dispatched to; the machine becomes
Halted exactly on HLT or on an unimplemented- or unknown-opcode signal, and there is no transition from Halted back to
Running. From a state that satisfies the invariant. -/
def Obligations.HaltsExactlyOnHltOrSignal : Prop :=
  (∀ s t : State, s.Inv → s.run = .running → step s = .next t →
    (t.run = .halted ↔ s.readMem s.pc = 0x76 ∨ (∃ byte pc, t.result = .unimplementedOpcode byte pc) ∨
      ∃ byte pc, t.result = .unknownOpcode byte pc)) ∧
  (∀ s t : State, s.Inv → s.run = .running → step s = .next t → t.result = .continued ∨ t.result = .halted →
    exec (decode (s.readMem s.pc) (s.readMem (s.pc + 1)) (s.readMem (s.pc + 2))) s = .next t) ∧
  (∀ s t : State, s.run = .halted → step s ≠ .next t)

/-- R293: the result of a step of a running machine is one of four. `Continued`: an instruction other than HLT executed
and the machine stays Running. `Halted`: HLT executed. The two faults carry the opcode fetched and its address. From a
state that satisfies the invariant. -/
def Obligations.StepResultIsOneOfFour : Prop :=
  ∀ s : State, s.Inv → s.run = .running → ∃ t, step s = .next t ∧
    ((t.result = .continued ∧ t.run = .running ∧ s.readMem s.pc ≠ 0x76 ∧ exec s.fetchInstr s = .next t) ∨
     (t.result = .halted ∧ t.run = .halted ∧ s.readMem s.pc = 0x76 ∧ exec .hlt s = .next t) ∨
     (t.result = .unimplementedOpcode (s.readMem s.pc) s.pc ∧ t.run = .halted) ∨
     (t.result = .unknownOpcode (s.readMem s.pc) s.pc ∧ t.run = .halted))

/-- Faults are reported exactly when the spec says, and precisely. A running machine whose opcode is in `UNIMPL` reports
`UnimplementedOpcode`, also when the opcode is unassigned or HLT; else, when the opcode is unassigned in fault mode,
`UnknownOpcode`; either with the opcode and its address, Halted, PC still at the opcode, and nothing else changed. With
any other opcode no fault is reported (60_exceptions.md; decisions D6, D7, D8, log 9). -/
def Obligations.FaultsAreReportedExactlyAndPrecisely : Prop :=
  ∀ s : State, s.run = .running → ∃ t, step s = .next t ∧
    (s.readMem s.pc ∈ s.config.unimpl → t.result = .unimplementedOpcode (s.readMem s.pc) s.pc) ∧
    (s.readMem s.pc ∉ s.config.unimpl → isUnassigned (s.readMem s.pc) = true → s.config.undocMode = .faulting →
      t.result = .unknownOpcode (s.readMem s.pc) s.pc) ∧
    (s.faultsAtDecode → t.run = .halted ∧ t.regs = s.regs ∧ t.flags = s.flags ∧ t.sp = s.sp ∧ t.pc = s.pc ∧
      t.mem = s.mem ∧ t.ie = s.ie ∧ t.ioOut = s.ioOut ∧ t.inCount = s.inCount ∧ t.config = s.config) ∧
    (¬ s.faultsAtDecode → s.readMem s.pc ≠ 0x76 → t.run = .running ∧ t.result = s.result) ∧
    (¬ s.faultsAtDecode → s.readMem s.pc = 0x76 → t.run = .halted ∧ t.result = .halted)

/-- PC advance (10_state.md section 3): a step that executes an instruction ends with PC at the target of the control transfer it makes, and else
past the instruction, by the length its opcode byte has; a step that ends in a fault leaves PC. The lengths and
conditions are decisions D1 and D23 (log 1), the targets of PCHL and RST D17 and D18 (log 2), PC after a fault D8
(log 21). -/
def Obligations.PcAdvancesByLengthOrTransfers : Prop :=
  ∀ s : State, s.run = .running →
    ∃ t, step s = .next t ∧
      (s.faultsAtDecode → t.pc = s.pc) ∧
      (¬ s.faultsAtDecode → ∀ target, transferTarget s.fetchInstr s = some target → t.pc = target) ∧
      (¬ s.faultsAtDecode → transferTarget s.fetchInstr s = none →
        t.pc = s.pc + BitVec.ofNat 16 (opcodeLength s.config.undocMode (s.readMem s.pc)))

/-- A store is seen by the very next fetch, for every storing form: MOV M,r, MVI M, STA, SHLD, STAX, INR M, DCR M, PUSH,
XTHL, RST, a taken call and the CALL alias. Memory holds what the instruction stored; of the three bytes the next step
decodes and runs, at the new PC and the two addresses after it, each that the instruction stored is the byte stored, and
each other is the byte memory held before (20_memory.md, instruction-fetch coherence; in alias mode and in fault mode alike). What each form stores is its own rule
in 41, 42, 44 and 45: the operand bytes, pairs and conditions by decisions D1, D2, D6, D23, D24 (log 1), SHLD, STA, STAX,
XTHL, the PSW byte and RST by D16, D17, D18 (log 2), the operand of the CALL alias by log 15. -/
def Obligations.StoreIsSeenByTheNextFetch : Prop :=
  ∀ s : State, s.run = .running → ¬ s.faultsAtDecode →
    let i := s.fetchInstr
    let seen (a : Word) (b : Byte) :=
      (∀ v, (a, v) ∈ storedBytes i s → b = v) ∧ (a ∉ storedAddresses i s → b = s.readMem a)
    ∃ t, step s = .next t ∧ HoldsBytes (storedBytes i s) t ∧
      seen t.pc t.fetchOpcode ∧ seen (t.pc + 1) t.operand2 ∧ seen (t.pc + 2) t.operand3 ∧
      (t.run = .running → t.fetchOpcode ∉ t.config.unimpl → step t = exec (decode t.fetchOpcode t.operand2 t.operand3) t)

/-! ## The invariant, reset and construction -/

/-- The state after reset satisfies the invariant. Both halves are the model's own choices: the recorded result of a
machine that has not stepped is `Continued` (log 8, DESIGN CHOICE: no rule gives it), and memory is a list in canonical
form (log 18, DESIGN CHOICE). -/
def Obligations.ResetSatisfiesInvariant : Prop := State.reset.Inv

/-- Every step keeps the invariant: memory stays canonical, and the recorded result tells how the machine halted (PC one
past a HLT byte, or still at a byte that raises the fault recorded) or that it runs. PC after HLT is decision D10 and PC
after a fault D8 (log 21); the recorded result of a machine that runs (log 8) and the canonical form (log 18) are the
model's own choices. -/
def Obligations.StepKeepsInvariant : Prop := ∀ s t : State, s.Inv → step s = .next t → t.Inv

/-- What reset leaves. SP = 0, PC = 0 and IE = 0 are the spec's (10_state.md section 10); the registers, flags and memory
bytes are its defaults (decisions D3, D4, D5, log 5, 6, 7), and so are the parameters a step reads (00_scope.md section 4,
decisions D6, D7, D11, D13, log 4); run, the trace and the counter are its bookkeeping (D19, log 8), and the recorded
result is the model's choice (log 8). -/
def Obligations.ResetValues : Prop :=
  State.reset.pc = 0 ∧ State.reset.sp = 0 ∧ State.reset.ie = false ∧ State.reset.run = .running ∧
  State.reset.flags = ⟨false, false, false, false, false⟩ ∧ State.reset.ioOut = [] ∧ State.reset.inCount = 0 ∧
  State.reset.result = .continued ∧ (∀ r, State.reset.reg r = 0) ∧ (∀ a, State.reset.readMem a = 0) ∧
  State.reset.config.undocMode = .faulting ∧ State.reset.config.unimpl = [] ∧
  State.reset.config.acSubPolarity = .borrow ∧ State.reset.config.anaAcMode = .orBit3

/-- Construction: byte i of the image at address i, `MEM_TAIL` beyond it, the parameters where they go, SP = 0, IE = 0,
Running, an empty trace, and the invariant (70_reset_and_hazards.md section 1; decisions D3, D4, D5, log 5, 6, 7, and
for the recorded result log 8). -/
def Obligations.ConstructionPlacesImage : Prop :=
  ∀ (p : StartParams) (image : List Byte), image.length ≤ 65536 →
    ∃ s, construct p image = .ok s ∧ s.Inv ∧
      (∀ (a : Word) (h : a.toNat < image.length), s.readMem a = image[a.toNat]) ∧
      (∀ a : Word, image.length ≤ a.toNat → s.readMem a = p.memTail a.toNat) ∧
      s.regs = p.regs ∧ s.flags = p.flags ∧ s.pc = p.resetPc ∧ s.config = p.config ∧ s.sp = 0 ∧ s.ie = false ∧
      s.run = .running ∧ s.result = .continued ∧ s.ioOut = [] ∧ s.inCount = 0

/-- R352: an image longer than 65,536 bytes is refused and yields no state; a length of exactly 65,536 fills the whole
memory, and a length of 0 gives a memory that is all `MEM_TAIL`. -/
def Obligations.OversizedImageIsRefused : Prop :=
  ∀ (p : StartParams) (image : List Byte),
    (65536 < image.length → construct p image = .error .imageTooLarge) ∧
    (image.length = 65536 → ∃ s, construct p image = .ok s ∧ ∀ a : Word, image[a.toNat]? = some (s.readMem a)) ∧
    (image.length = 0 → ∃ s, construct p image = .ok s ∧ ∀ a : Word, s.readMem a = p.memTail a.toNat)

/-- The state of reset is the one construction gives for the empty image with every parameter at its default
(70_reset_and_hazards.md section 1; log 14). -/
def Obligations.ResetIsDefaultConstruction : Prop := construct defaultStart [] = .ok State.reset

/-- Canonical memories that read the same at every address are equal data (the memory is a total function from address
to byte, 10_state.md section 7; the list form is the model's, log 18). -/
def Obligations.CanonicalMemoryIsUnique : Prop :=
  ∀ m n : Memory, m.wf = true → n.wf = true → (∀ a : Word, m.read a.toNat = n.read a.toNat) → m = n

/-! ## Data transfer (41_data_transfer.md) -/

/-- MOV r1,r2, MOV r,M and MVI r copy the source to the destination register, H and L included as destinations of
MOV r,M, and change nothing else but PC. -/
def Obligations.RegisterLoads : Prop :=
  ∀ (s : State) (dst src : Reg) (d8 : Byte),
    Moves (.movRR dst src) s 1 (fun t => t.reg dst = s.reg src ∧ ChangesOnlyRegs [dst] s t) ∧
    Moves (.movRM dst) s 1 (fun t => t.reg dst = s.atHl ∧ ChangesOnlyRegs [dst] s t) ∧
    Moves (.mviR dst d8) s 2 (fun t => t.reg dst = d8 ∧ ChangesOnlyRegs [dst] s t)

/-- LDA, LDAX B and LDAX D load A from the address given, and change nothing else but PC (decision D17, log 2). -/
def Obligations.AccumulatorLoads : Prop :=
  ∀ (s : State) (a16 : Word),
    Moves (.lda a16) s 3 (fun t => t.reg .a = s.readMem a16 ∧ ChangesOnlyRegs [.a] s t) ∧
    Moves (.ldax .b) s 1 (fun t => t.reg .a = s.readMem (mkWord (s.reg .b) (s.reg .c)) ∧ ChangesOnlyRegs [.a] s t) ∧
    Moves (.ldax .d) s 1 (fun t => t.reg .a = s.readMem (mkWord (s.reg .d) (s.reg .e)) ∧ ChangesOnlyRegs [.a] s t)

/-- MOV M,r, MVI M, STA, STAX B and STAX D store one byte at the address given; every other byte, every register and
SP are unchanged (STA and STAX: decision D17, log 2). -/
def Obligations.ByteStores : Prop :=
  ∀ (s : State) (src : Reg) (d8 : Byte) (a16 : Word),
    let stores (i : Instr) (length a : Word) (v : Byte) :=
      Moves i s length fun t => t.readMem a = v ∧ KeepsMemBut [a] s t ∧ KeepsRegsBut [] s t ∧ t.sp = s.sp
    stores (.movMR src) 1 (mkWord (s.reg .h) (s.reg .l)) (s.reg src) ∧
    stores (.mviM d8) 2 (mkWord (s.reg .h) (s.reg .l)) d8 ∧
    stores (.sta a16) 3 a16 (s.reg .a) ∧
    stores (.stax .b) 1 (mkWord (s.reg .b) (s.reg .c)) (s.reg .a) ∧
    stores (.stax .d) 1 (mkWord (s.reg .d) (s.reg .e)) (s.reg .a)

/-- LXI loads the pair's high register with the third byte and its low register with the second, or SP with both; no
other register and no byte of memory changes (decisions D1, D2, log 1). -/
def Obligations.LxiLoadsPair : Prop :=
  ∀ (s : State) (p : RegPair) (b3 b2 : Byte),
    Moves (.lxi p (mkWord b3 b2)) s 3 fun t =>
      HoldsPair t p b3 b2 ∧ KeepsRegsBut (pairHalves p) s t ∧ (p ≠ .sp → t.sp = s.sp) ∧ KeepsMem s t

/-- LHLD loads L from the address and H from the next one, SHLD stores them there, the second address wrapping
(decisions D2, D17, log 1 and 2). -/
def Obligations.HlDirectTransfers : Prop :=
  ∀ (s : State) (a16 : Word),
    Moves (.lhld a16) s 3 (fun t => t.reg .l = s.readMem a16 ∧ t.reg .h = s.readMem (a16 + 1) ∧
      ChangesOnlyRegs [.h, .l] s t) ∧
    Moves (.shld a16) s 3 (fun t => t.readMem a16 = s.reg .l ∧ t.readMem (a16 + 1) = s.reg .h ∧
      KeepsMemBut [a16, a16 + 1] s t ∧ KeepsRegsBut [] s t ∧ t.sp = s.sp)

/-- XCHG exchanges H with D and L with E at once (decision D17, log 2). -/
def Obligations.XchgExchanges : Prop :=
  ∀ s : State, Moves .xchg s 1 fun t =>
    t.reg .h = s.reg .d ∧ t.reg .l = s.reg .e ∧ t.reg .d = s.reg .h ∧ t.reg .e = s.reg .l ∧
      ChangesOnlyRegs [.h, .l, .d, .e] s t

/-! ## Arithmetic (42_arithmetic.md) -/

/-- ADD, ADI, ADC and ACI, every form: A becomes the truncated sum, CY is set iff the sum exceeds 255, AC iff the
nibble sum exceeds 15 (the carry in takes part: decision D12, log 22), Z, S, P are those of the result. -/
def Obligations.AddInstructions : Prop :=
  ∀ (s : State) (src : Reg) (d8 : Byte),
    let a := s.reg .a
    Accumulates (.addR src) s 1 (IsSum a (s.reg src) false) ∧
    Accumulates .addM s 1 (IsSum a s.atHl false) ∧
    Accumulates (.adi d8) s 2 (IsSum a d8 false) ∧
    Accumulates (.adcR src) s 1 (IsSum a (s.reg src) s.flags.cy) ∧
    Accumulates .adcM s 1 (IsSum a s.atHl s.flags.cy) ∧
    Accumulates (.aci d8) s 2 (IsSum a d8 s.flags.cy)

/-- SUB, SUI, SBB and SBI, every form and both values of `AC_SUB_POLARITY`: A becomes the truncated difference, CY is the
borrow (decisions D11, D12, log 3 and 22). -/
def Obligations.SubtractInstructions : Prop :=
  ∀ (s : State) (src : Reg) (d8 : Byte),
    let is (v : Byte) (bin : Bool) := IsDifference s.config.acSubPolarity (s.reg .a) v bin
    Accumulates (.subR src) s 1 (is (s.reg src) false) ∧
    Accumulates .subM s 1 (is s.atHl false) ∧
    Accumulates (.sui d8) s 2 (is d8 false) ∧
    Accumulates (.sbbR src) s 1 (is (s.reg src) s.flags.cy) ∧
    Accumulates .sbbM s 1 (is s.atHl s.flags.cy) ∧
    Accumulates (.sbi d8) s 2 (is d8 s.flags.cy)

/-- R117, with the instructions' results: INR and DCR on a register or the byte at H:L add or subtract 1 modulo 256,
write Z, S, P from the result and AC by the low nibble (DCR by `AC_SUB_POLARITY`), and never touch CY. -/
def Obligations.IncrementDecrement : Prop :=
  ∀ (s : State) (r : Reg),
    let flagsFor (t : State) (res : Byte) := FlagsOfResult res t.flags ∧ t.flags.cy = s.flags.cy
    let incremented (t : State) (v res : Byte) :=
      res.toNat = (v.toNat + 1) % 256 ∧ flagsFor t res ∧ (t.flags.ac = true ↔ v.toNat % 16 = 15)
    let decremented (t : State) (v res : Byte) :=
      res.toNat = (v.toNat + 255) % 256 ∧ flagsFor t res ∧
        (s.config.acSubPolarity = .borrow → (t.flags.ac = true ↔ v.toNat % 16 = 0)) ∧
        (s.config.acSubPolarity = .carry → (t.flags.ac = true ↔ v.toNat % 16 ≠ 0))
    let onReg (i : Instr) (changed : State → Byte → Byte → Prop) :=
      ∃ t, exec i s = .next t ∧ changed t (s.reg r) (t.reg r) ∧ t.pc = s.pc + 1 ∧ ChangesOnlyRegs [r] s t
    let onMem (i : Instr) (changed : State → Byte → Byte → Prop) :=
      let hl := mkWord (s.reg .h) (s.reg .l)
      ∃ t, exec i s = .next t ∧ changed t (s.readMem hl) (t.readMem hl) ∧ t.pc = s.pc + 1 ∧
        KeepsMemBut [hl] s t ∧ KeepsRegsBut [] s t ∧ t.sp = s.sp ∧ KeepsControl s t
    onReg (.inrR r) incremented ∧ onReg (.dcrR r) decremented ∧ onMem .inrM incremented ∧ onMem .dcrM decremented

/-- INX and DCX count the pair B, D, H or SP modulo 65,536 and write no flag (decision D17, log 2). -/
def Obligations.PairCounting : Prop :=
  ∀ (s : State) (p : RegPair) (hi lo : Byte), HoldsPair s p hi lo →
    let counts (i : Instr) (by1 : Nat) :=
      Moves i s 1 fun t => (∃ hi' lo', HoldsPair t p hi' lo' ∧
          hi'.toNat * 256 + lo'.toNat = (hi.toNat * 256 + lo.toNat + by1) % 65536) ∧
        KeepsRegsBut (pairHalves p) s t ∧ (p ≠ .sp → t.sp = s.sp) ∧ KeepsMem s t
    counts (.inx p) 1 ∧ counts (.dcx p) 65535

/-- DAD adds the pair B, D, H or SP to H:L modulo 65,536; CY is the carry out of bit 15 and no other flag changes
(decision D14, log 2). -/
def Obligations.DadAddsPairToHl : Prop :=
  ∀ (s : State) (p : RegPair) (hi lo : Byte), HoldsPair s p hi lo →
    let sum := (s.reg .h).toNat * 256 + (s.reg .l).toNat + hi.toNat * 256 + lo.toNat
    ∃ t, exec (.dad p) s = .next t ∧ (t.reg .h).toNat * 256 + (t.reg .l).toNat = sum % 65536 ∧
      (t.flags.cy = true ↔ 65535 < sum) ∧ t.flags.z = s.flags.z ∧ t.flags.s = s.flags.s ∧ t.flags.p = s.flags.p ∧
      t.flags.ac = s.flags.ac ∧ t.pc = s.pc + 1 ∧ ChangesOnlyRegs [.h, .l] s t

/-- DAA is the two-step adjustment in words: 6 is added if the low nibble is above 9 or AC is set; then, if the high
nibble after that addition is above 9 or CY was set, 0x60 is added and CY set, and CY is never cleared; AC is the carry
out of bit 3 of the correction (40_alu_flag_rules.md section 7; decision D15, log 2). -/
def Obligations.DaaAdjustsInTwoSteps : Prop :=
  ∀ s : State,
    let a := (s.reg .a).toNat
    let fixLow := 9 < a % 16 ∨ s.flags.ac = true
    ∀ six : Nat, (fixLow → six = 6) → (¬ fixLow → six = 0) →
      let fixHigh := 9 < (a + six) / 16 ∨ s.flags.cy = true
      Accumulates .daa s 1 fun r cy ac =>
        (fixHigh → r.toNat = (a + six + 0x60) % 256 ∧ cy = true) ∧
        (¬ fixHigh → r.toNat = a + six ∧ cy = s.flags.cy) ∧
        (ac = true ↔ 15 < a % 16 + six)

/-! ## Logical (43_logical.md) -/

/-- ANA and ANI, every form and both values of `ANA_AC_MODE`: bitwise AND, CY false, AC bit 3 of the OR of the operands
or false (decision D13, log 3 and 22). -/
def Obligations.AndInstructions : Prop :=
  ∀ (s : State) (src : Reg) (d8 : Byte),
    let is (v r : Byte) (cy ac : Bool) :=
      (∀ k < 8, r.getLsbD k = ((s.reg .a).getLsbD k && v.getLsbD k)) ∧ cy = false ∧
      (s.config.anaAcMode = .orBit3 → ac = ((s.reg .a).getLsbD 3 || v.getLsbD 3)) ∧
      (s.config.anaAcMode = .zero → ac = false)
    Accumulates (.anaR src) s 1 (is (s.reg src)) ∧ Accumulates .anaM s 1 (is s.atHl) ∧ Accumulates (.ani d8) s 2 (is d8)

/-- XRA, XRI, ORA and ORI, every form: bitwise, CY and AC false (decision D13, log 22). -/
def Obligations.XorOrInstructions : Prop :=
  ∀ (s : State) (src : Reg) (d8 : Byte),
    let is (op : Bool → Bool → Bool) (v r : Byte) (cy ac : Bool) :=
      (∀ k < 8, r.getLsbD k = op ((s.reg .a).getLsbD k) (v.getLsbD k)) ∧ cy = false ∧ ac = false
    Accumulates (.xraR src) s 1 (is xor (s.reg src)) ∧ Accumulates .xraM s 1 (is xor s.atHl) ∧
    Accumulates (.xri d8) s 2 (is xor d8) ∧
    Accumulates (.oraR src) s 1 (is or (s.reg src)) ∧ Accumulates .oraM s 1 (is or s.atHl) ∧
    Accumulates (.ori d8) s 2 (is or d8)

/-- CMP and CPI, every form: the flags a subtraction would write, A and everything else unchanged (decision D11,
log 3). -/
def Obligations.CompareInstructions : Prop :=
  ∀ (s : State) (src : Reg) (d8 : Byte),
    let compares (i : Instr) (length : Word) (v : Byte) :=
      ∃ t, exec i s = .next t ∧
        (∃ r, IsDifference s.config.acSubPolarity (s.reg .a) v false r t.flags.cy t.flags.ac ∧ FlagsOfResult r t.flags) ∧
        t.pc = s.pc + length ∧ ChangesOnlyRegs [] s t
    compares (.cmpR src) 1 (s.reg src) ∧ compares .cmpM 1 s.atHl ∧ compares (.cpi d8) 2 d8

/-- RLC, RRC, RAL and RAR move each bit of A by one place; CY takes the bit that leaves; Z, S, P, AC are unchanged
(decision D17, log 2). -/
def Obligations.RotateInstructions : Prop :=
  ∀ s : State,
    let a (k : Nat) := (s.reg .a).getLsbD k
    let rotates (i : Instr) (bit : Nat → Bool) (carry : Bool) :=
      ∃ t, exec i s = .next t ∧ (∀ k < 8, (t.reg .a).getLsbD k = bit k) ∧ t.flags = { s.flags with cy := carry } ∧
        t.pc = s.pc + 1 ∧ ChangesOnlyRegs [.a] s t
    rotates .rlc (fun k => if k = 0 then a 7 else a (k - 1)) (a 7) ∧
    rotates .rrc (fun k => if k = 7 then a 0 else a (k + 1)) (a 0) ∧
    rotates .ral (fun k => if k = 0 then s.flags.cy else a (k - 1)) (a 7) ∧
    rotates .rar (fun k => if k = 7 then s.flags.cy else a (k + 1)) (a 0)

/-- CMA complements A and writes no flag; CMC complements CY, STC sets it, and neither changes anything else (decision
D17, log 2). -/
def Obligations.ComplementAndCarry : Prop :=
  ∀ s : State,
    Moves .cma s 1 (fun t => (t.reg .a).toNat = 255 - (s.reg .a).toNat ∧ ChangesOnlyRegs [.a] s t) ∧
    (∃ t, exec .cmc s = .next t ∧ t.flags = { s.flags with cy := !s.flags.cy } ∧ t.pc = s.pc + 1 ∧
      ChangesOnlyRegs [] s t) ∧
    (∃ t, exec .stc s = .next t ∧ t.flags = { s.flags with cy := true } ∧ t.pc = s.pc + 1 ∧ ChangesOnlyRegs [] s t)

/-! ## Branch (44_branch.md) -/

/-- JMP goes to its operand whatever the flags are, PCHL to H:L; nothing else changes (PCHL: decision D17, log 2). -/
def Obligations.UnconditionalJumps : Prop :=
  ∀ (s : State) (a16 : Word),
    Jumps (.jmp a16) s true a16 ∧ Jumps .pchl s true (mkWord (s.reg .h) (s.reg .l))

/-- R252: the eight conditional jumps take or skip the transfer by the flag each tests, and change nothing else. Which
flag and polarity each mnemonic tests is the table of R221 (decision D23, log 1). -/
def Obligations.ConditionalJumps : Prop :=
  ∀ (s : State) (a16 : Word),
    Jumps (.jnz a16) s (!s.flags.z) a16 ∧ Jumps (.jz a16) s s.flags.z a16 ∧
    Jumps (.jnc a16) s (!s.flags.cy) a16 ∧ Jumps (.jc a16) s s.flags.cy a16 ∧
    Jumps (.jpo a16) s (!s.flags.p) a16 ∧ Jumps (.jpe a16) s s.flags.p a16 ∧
    Jumps (.jp a16) s (!s.flags.s) a16 ∧ Jumps (.jm a16) s s.flags.s a16

/-- CALL pushes the address after it and jumps; RST n pushes the address after it and jumps to 8n (RST: decision D18,
log 2). -/
def Obligations.UnconditionalCalls : Prop :=
  ∀ (s : State) (a16 : Word) (n : Fin 8),
    Calls (.call a16) s 3 true a16 ∧ Calls (.rst n) s 1 true (BitVec.ofNat 16 (8 * n.val))

/-- The eight conditional calls: as CALL when the condition holds, else no stack access and SP unchanged (decisions D23,
D24, log 1). -/
def Obligations.ConditionalCalls : Prop :=
  ∀ (s : State) (a16 : Word),
    Calls (.cnz a16) s 3 (!s.flags.z) a16 ∧ Calls (.cz a16) s 3 s.flags.z a16 ∧
    Calls (.cnc a16) s 3 (!s.flags.cy) a16 ∧ Calls (.cc a16) s 3 s.flags.cy a16 ∧
    Calls (.cpo a16) s 3 (!s.flags.p) a16 ∧ Calls (.cpe a16) s 3 s.flags.p a16 ∧
    Calls (.cp a16) s 3 (!s.flags.s) a16 ∧ Calls (.cm a16) s 3 s.flags.s a16

/-- RET and the eight conditional returns: PC from the stack and SP up by 2 when taken, else no stack access and SP
unchanged (decisions D23, D24, log 1). -/
def Obligations.ReturnInstructions : Prop :=
  ∀ s : State, Returns .ret s true ∧
    Returns .rnz s (!s.flags.z) ∧ Returns .rz s s.flags.z ∧
    Returns .rnc s (!s.flags.cy) ∧ Returns .rc s s.flags.cy ∧
    Returns .rpo s (!s.flags.p) ∧ Returns .rpe s s.flags.p ∧
    Returns .rp s (!s.flags.s) ∧ Returns .rm s s.flags.s

/-- CALL to X followed by RET returns PC to the instruction after the CALL and restores SP, for every SP, registers and
flags included; likewise RST (44_branch.md, CALL and RET). -/
def Obligations.CallThenReturn : Prop :=
  ∀ (s : State) (a16 : Word) (n : Fin 8),
    let comesBack (i : Instr) (length : Word) :=
      ∃ t u, exec i s = .next t ∧ exec .ret t = .next u ∧ u.pc = s.pc + length ∧ u.sp = s.sp ∧ u.flags = s.flags ∧
        KeepsRegsBut [] s u
    comesBack (.call a16) 3 ∧ comesBack (.rst n) 1

/-! ## Stack, I/O, control (45_stack_io_control.md) -/

/-- PUSH of B, D and H stores the pair, high register at SP-1 and low register at SP-2, and leaves the registers (which
registers make the pairs B and D: decision D1, log 1). -/
def Obligations.PushPairs : Prop :=
  ∀ s : State, Pushes (.pushRp .b) s (s.reg .b) (s.reg .c) ∧ Pushes (.pushRp .d) s (s.reg .d) (s.reg .e) ∧
    Pushes (.pushRp .h) s (s.reg .h) (s.reg .l)

/-- PUSH PSW stores A at SP-1 and, at SP-2, the flag byte: from bit 7, S Z 0 AC 0 P 1 CY (decision D16, log 2). -/
def Obligations.PushPswStoresFlagByte : Prop :=
  ∀ s : State, ∃ b : Byte, Pushes .pushPsw s (s.reg .a) b ∧
    b.getLsbD 7 = s.flags.s ∧ b.getLsbD 6 = s.flags.z ∧ b.getLsbD 5 = false ∧ b.getLsbD 4 = s.flags.ac ∧
    b.getLsbD 3 = false ∧ b.getLsbD 2 = s.flags.p ∧ b.getLsbD 1 = true ∧ b.getLsbD 0 = s.flags.cy

/-- POP of B, D and H loads the low register from SP and the high register from SP+1, SP rises by 2, memory is not
changed (which registers make the pairs B and D: decision D1, log 1). -/
def Obligations.PopPairs : Prop :=
  ∀ s : State,
    let pops (p : RegPair) := Moves (.popRp p) s 1 fun t =>
      HoldsPair t p (s.readMem (s.sp + 1)) (s.readMem s.sp) ∧ t.sp = s.sp + 2 ∧ KeepsRegsBut (pairHalves p) s t ∧ KeepsMem s t
    pops .b ∧ pops .d ∧ pops .h

/-- POP PSW loads A from SP+1 and the five flags from the byte at SP, ignoring its bits 5, 3 and 1 (decision D16,
log 2). -/
def Obligations.PopPswLoadsFlags : Prop :=
  ∀ s : State,
    let b := s.readMem s.sp
    ∃ t, exec .popPsw s = .next t ∧ t.reg .a = s.readMem (s.sp + 1) ∧
      t.flags.s = b.getLsbD 7 ∧ t.flags.z = b.getLsbD 6 ∧ t.flags.ac = b.getLsbD 4 ∧ t.flags.p = b.getLsbD 2 ∧
      t.flags.cy = b.getLsbD 0 ∧ t.sp = s.sp + 2 ∧ t.pc = s.pc + 1 ∧ KeepsRegsBut [.a] s t ∧ KeepsMem s t ∧
      KeepsControl s t

/-- PUSH followed immediately by POP of the same pair restores registers, flags and SP, for B, D, H and PSW and every
SP (20_memory.md section 8; 45_stack_io_control.md). -/
def Obligations.PushThenPopRestores : Prop :=
  ∀ s : State,
    let restores (push pop : Instr) :=
      ∃ t u, exec push s = .next t ∧ exec pop t = .next u ∧ KeepsRegsBut [] s u ∧ u.flags = s.flags ∧ u.sp = s.sp
    restores (.pushRp .b) (.popRp .b) ∧ restores (.pushRp .d) (.popRp .d) ∧ restores (.pushRp .h) (.popRp .h) ∧
    restores .pushPsw .popPsw

/-- R60, R61: `Push16` writes the high byte at SP-1 and the low byte at SP-2 and leaves SP lower by 2; `Pop16` reads the
low byte at SP and the high byte at SP+1 and leaves SP higher by 2; neither changes anything else. -/
def Obligations.StackOperations : Prop :=
  ∀ (s : State) (v : Word),
    let otherwiseSame (t : State) := KeepsRegsBut [] s t ∧ t.flags = s.flags ∧ t.pc = s.pc ∧ KeepsControl s t
    ((s.push16 v).readMem (s.sp - 1)).toNat = v.toNat / 256 ∧ ((s.push16 v).readMem (s.sp - 2)).toNat = v.toNat % 256 ∧
    (s.push16 v).sp.toNat = (s.sp.toNat + 65534) % 65536 ∧ KeepsMemBut [s.sp - 1, s.sp - 2] s (s.push16 v) ∧
    otherwiseSame (s.push16 v) ∧
    s.top16.toNat = (s.readMem (s.sp + 1)).toNat * 256 + (s.readMem s.sp).toNat ∧
    s.pop16.sp.toNat = (s.sp.toNat + 2) % 65536 ∧ KeepsMem s s.pop16 ∧ otherwiseSame s.pop16

/-- XTHL exchanges L with the byte at SP and H with the byte at SP+1; SPHL copies H:L to SP; the rest is unchanged
(decision D17, log 2). -/
def Obligations.HlStackExchange : Prop :=
  ∀ s : State,
    Moves .xthl s 1 (fun t => t.reg .l = s.readMem s.sp ∧ t.reg .h = s.readMem (s.sp + 1) ∧
      t.readMem s.sp = s.reg .l ∧ t.readMem (s.sp + 1) = s.reg .h ∧ t.sp = s.sp ∧ KeepsRegsBut [.h, .l] s t ∧
      KeepsMemBut [s.sp, s.sp + 1] s t) ∧
    Moves .sphl s 1 (fun t => t.sp = mkWord (s.reg .h) (s.reg .l) ∧ KeepsRegsBut [] s t ∧ KeepsMem s t)

/-- NOP moves PC by 1, HLT moves PC by 1 and enters Halted with the result `Halted`, EI and DI move PC by 1 and write the
interrupt-enable bit at once; none changes anything else (decisions D10, D20, log 13 and 21). -/
def Obligations.ControlInstructions : Prop :=
  ∀ s : State,
    let only (t : State) := KeepsRegsBut [] s t ∧ t.flags = s.flags ∧ t.sp = s.sp ∧ t.pc = s.pc + 1 ∧ KeepsMem s t ∧
      t.ioOut = s.ioOut ∧ t.inCount = s.inCount ∧ t.config = s.config
    (∃ t, exec .nop s = .next t ∧ only t ∧ t.ie = s.ie ∧ t.run = s.run ∧ t.result = s.result) ∧
    (∃ t, exec .hlt s = .next t ∧ only t ∧ t.ie = s.ie ∧ t.run = .halted ∧ t.result = .halted) ∧
    (∃ t, exec .ei s = .next t ∧ only t ∧ t.ie = true ∧ t.run = s.run ∧ t.result = s.result) ∧
    (∃ t, exec .di s = .next t ∧ only t ∧ t.ie = false ∧ t.run = s.run ∧ t.result = s.result)

/-- IN loads A with the byte the environment supplies, whatever it is, and counts the read; OUT appends the port and A to
the trace; neither changes memory, flags, SP or another register (decision D19, log 11 and 12). -/
def Obligations.InputOutput : Prop :=
  ∀ (s : State) (port : Byte),
    let only (rs : List Reg) (t : State) := KeepsRegsBut rs s t ∧ t.flags = s.flags ∧ t.sp = s.sp ∧ t.pc = s.pc + 2 ∧
      KeepsMem s t ∧ t.ie = s.ie ∧ t.run = s.run ∧ t.result = s.result ∧ t.config = s.config
    (∃ t, exec (.inp port) s = .next t ∧ only [.a] t ∧ t.reg .a = Config.portIn port s.inCount ∧
      t.inCount = s.inCount + 1 ∧ t.ioOut = s.ioOut) ∧
    (∃ t, exec (.out port) s = .next t ∧ only [] t ∧ t.ioOut = s.ioOut ++ [(port, s.reg .a)] ∧
      t.inCount = s.inCount)

/-- In fault mode each of the four unassigned rows reports `UnknownOpcode` with its own opcode byte and PC, enters
Halted, and changes nothing else (decisions D6, D8, log 9). -/
def Obligations.UnassignedOpcodesFault : Prop :=
  ∀ (s : State) (x : Fin 8) (y : Fin 4), s.config.undocMode = .faulting →
    let reports (i : Instr) (op : Byte) :=
      ∃ t, exec i s = .next t ∧ t.run = .halted ∧ t.result = .unknownOpcode op s.pc ∧ t.pc = s.pc ∧ t.regs = s.regs ∧
        t.flags = s.flags ∧ t.sp = s.sp ∧ KeepsMem s t ∧ t.ie = s.ie ∧ t.ioOut = s.ioOut ∧ t.inCount = s.inCount ∧
        t.config = s.config
    reports (.unassignedNop x) (BitVec.ofNat 8 (8 * x.val)) ∧ reports .unassignedJmp 0xCB ∧
    reports .unassignedRet 0xD9 ∧ reports (.unassignedCall y) (BitVec.ofNat 8 (0xCD + 16 * y.val))

/-- In alias mode each of the four unassigned rows executes exactly as its alias, NOP, JMP, RET or CALL, the operand of
JMP and CALL being the two bytes after the opcode (decision D6, log 15). -/
def Obligations.UnassignedOpcodesAlias : Prop :=
  ∀ (s : State) (x : Fin 8) (y : Fin 4), s.config.undocMode = .aliased →
    let a16 := mkWord (s.readMem (s.pc + 2)) (s.readMem (s.pc + 1))
    let actsAs (i j : Instr) := ∃ t, exec i s = .next t ∧ exec j s = .next t
    actsAs (.unassignedNop x) .nop ∧ actsAs .unassignedJmp (.jmp a16) ∧ actsAs .unassignedRet .ret ∧
    actsAs (.unassignedCall y) (.call a16)

/-! ## Rules about the whole machine -/

/-- The flag table: every instruction completes, and writes no flag that the table's row for it does not name
(40_alu_flag_rules.md section 9; 10_state.md section 5; decisions D14, D16, D17, log 2). -/
def Obligations.FlagsWrittenOnlyAsTabled : Prop :=
  ∀ (i : Instr) (s : State), ∃ t, exec i s = .next t ∧
    ((writesFlags i).z = false → t.flags.z = s.flags.z) ∧ ((writesFlags i).s = false → t.flags.s = s.flags.s) ∧
    ((writesFlags i).p = false → t.flags.p = s.flags.p) ∧ ((writesFlags i).cy = false → t.flags.cy = s.flags.cy) ∧
    ((writesFlags i).ac = false → t.flags.ac = s.flags.ac)

/-- Every instruction completes, and every byte of memory outside the addresses it stores to reads as before; the
addresses are the expressions the meanings store with (20_memory.md section 5: a write changes exactly the addressed
byte; where the forms store: decisions D1, D6, D23, D24, log 1, and D17, D18, log 2). -/
def Obligations.MemoryChangesOnlyWhereStored : Prop :=
  ∀ (i : Instr) (s : State), ∃ t, exec i s = .next t ∧ KeepsMemBut (storedAddresses i s) s t

/-- R33: the interrupt-enable bit is 0 after reset, EI sets it, DI clears it, and no instruction reads it: from two states
that differ in it alone, every instruction but EI and DI gives two states that differ in it alone. -/
def Obligations.InterruptEnableOnlyToggled : Prop :=
  State.reset.ie = false ∧
  ∀ (i : Instr) (s : State) (b : Bool), ∃ t, exec i s = .next t ∧
    (i = .ei → t.ie = true) ∧ (i = .di → t.ie = false) ∧
    (i ≠ .ei → i ≠ .di → t.ie = s.ie ∧ exec i { s with ie := b } = .next { t with ie := b })

/-- The trace grows only by OUT, the counter only by IN, and no instruction reads the trace: from a state with another
trace, the same instruction appends the same pairs and does everything else alike (10_state.md section 8; decision D19,
log 12). The parameters never change (log 3). -/
def Obligations.TraceAndCounter : Prop :=
  ∀ (i : Instr) (s : State) (earlier : List (Byte × Byte)), ∃ t added, exec i s = .next t ∧
    t.ioOut = s.ioOut ++ added ∧ t.config = s.config ∧
    ((∀ port, i ≠ .out port) → added = []) ∧ ((∀ port, i ≠ .inp port) → t.inCount = s.inCount) ∧
    exec i { s with ioOut := earlier } = .next { t with ioOut := earlier ++ added }

/-- Every instruction completes, and SP is unchanged but for LXI SP, INX SP, DCX SP, SPHL and the instructions that push
or pop; XTHL leaves it, and a push or pop that is not taken leaves it by ConditionalCalls and ReturnInstructions
(10_state.md section 4; decisions D1, D6, D24, log 1). -/
def Obligations.StackPointerWrittenOnlyByStackInstructions : Prop :=
  ∀ (i : Instr) (s : State), ∃ t, exec i s = .next t ∧ (writesSp i = false → t.sp = s.sp)
end

