-- ==== Sys2Proof/Laws/Decode.lean ====
section
/-! SUPPORT. What `decodeBytes` takes from a list, by the length of the opcode at its head. -/

namespace Sys2Proof

/-- A one-byte instruction. -/
theorem decodeBytes_one {op : Byte} (h : opcodeLength .faulting op = 1) (rest : List Byte) :
    decodeBytes (op :: rest) = .ok (decode op 0 0, rest) := by
  simp [decodeBytes, h]

/-- A two-byte instruction. -/
theorem decodeBytes_two {op : Byte} (h : opcodeLength .faulting op = 2) (b2 : Byte) (rest : List Byte) :
    decodeBytes (op :: b2 :: rest) = .ok (decode op b2 0, rest) := by
  simp [decodeBytes, h]

/-- A three-byte instruction. -/
theorem decodeBytes_three {op : Byte} (h : opcodeLength .faulting op = 3) (b2 b3 : Byte) (rest : List Byte) :
    decodeBytes (op :: b2 :: b3 :: rest) = .ok (decode op b2 b3, rest) := by
  simp [decodeBytes, h]

/-- The instruction is HLT. -/
def Instr.isHlt : Instr → Bool
  | .hlt => true
  | _ => false

/-- The opcode byte of the instruction, for the unassigned ones. -/
def Instr.unassignedByte : Instr → Option Byte
  | .unassignedNop x => some (opcode (.unassignedNop x))
  | .unassignedJmp => some 0xCB
  | .unassignedRet => some 0xD9
  | .unassignedCall x => some (opcode (.unassignedCall x))
  | _ => none

/-- To show something of every byte, show it of the 256 numerals. -/
theorem forall_byte {P : Byte → Prop} (h : ∀ n < 256, P (BitVec.ofNat 8 n)) (b : Byte) : P b := by
  have hb := h b.toNat b.isLt
  rwa [BitVec.ofNat_toNat, BitVec.setWidth_eq] at hb

theorem decode_isHlt (op b2 b3 : Byte) : (decode op b2 b3).isHlt = (op == 0x76) := by
  refine forall_byte (P := fun op => (decode op b2 b3).isHlt = (op == 0x76)) (fun n hn => ?_) op
  interval_cases n <;> rfl

theorem decode_unassignedByte (op b2 b3 : Byte) :
    (decode op b2 b3).unassignedByte = if isUnassigned op then some op else none := by
  refine forall_byte (P := fun op => (decode op b2 b3).unassignedByte = if isUnassigned op then some op else none)
    (fun n hn => ?_) op
  interval_cases n <;> rfl

end Sys2Proof
end

