-- ==== Sys2Proof/Laws/Flags.lean ====
section
/-! SUPPORT. What each function of the arithmetic and the flag rules computes, one lemma per function. -/

namespace Sys2Proof.Machine

theorem zf_iff (r : Byte) : zf r = true ↔ r.toNat = 0 := by
  rw [zf, beq_iff_eq, ← BitVec.toNat_inj]
  rfl

theorem sf_iff (r : Byte) : sf r = true ↔ 128 ≤ r.toNat := by
  have := r.isLt
  have h : r.getLsbD 7 = r.toNat.testBit 7 := rfl
  rw [sf, h, Nat.testBit_eq_decide_div_mod_eq, decide_eq_true_iff]
  omega

theorem length_filter_cons {α : Type} (p : α → Bool) (a : α) (l : List α) :
    ((a :: l).filter p).length = (p a).toNat + (l.filter p).length := by
  cases h : p a <;> simp [h]
  omega

theorem bitCount_eq (r : Byte) : bitCount r = ((List.range 8).filter fun k => r.getLsbD k).length := by
  simp only [bitCount, List.range, List.range.loop, length_filter_cons, List.filter_nil, List.length_nil]
  omega

/-- `ZSP(r)` writes the flags of the result (R110, R111, R112, R115). -/
theorem flagsOfResult_of {r : Byte} {f : Flags} (hz : f.z = zf r) (hs : f.s = sf r) (hp : f.p = pf r) :
    FlagsOfResult r f := by
  refine ⟨by rw [hz, zf_iff], by rw [hs, sf_iff], ?_⟩
  rw [hp, pf, bitCount_eq, beq_iff_eq]

theorem flagsOfResult_alu8 (x : Alu8) : FlagsOfResult x.res x.flags := flagsOfResult_of rfl rfl rfl

theorem add8_isSum (a v : Byte) (cin : Bool) :
    IsSum a v cin (add8 a v cin).res (add8 a v cin).cy (add8 a v cin).ac := by
  refine ⟨by simp [add8], ?_, ?_⟩ <;> simp [add8]

theorem sub8_isDifference (polarity : AcSubPolarity) (a v : Byte) (bin : Bool) :
    IsDifference polarity a v bin (sub8 polarity a v bin).res (sub8 polarity a v bin).cy
      (sub8 polarity a v bin).ac := by
  have ha := a.isLt
  have hv := v.isLt
  have hb : bin.toNat ≤ 1 := by cases bin <;> decide
  refine ⟨?_, ?_, ?_, ?_⟩
  · simp only [sub8, BitVec.toNat_ofNat]
    omega
  · simp [sub8]
  · intro h
    subst h
    simp [sub8]
  · intro h
    subst h
    simp [sub8]

theorem add16_toNat (a b : Word) : (add16 a b).1.toNat = (a.toNat + b.toNat) % 65536 := by
  simp [add16]

theorem add16_carry (a b : Word) : (add16 a b).2 = true ↔ 65535 < a.toNat + b.toNat := by
  simp [add16]

theorem bitByte_getLsbD (c : Bool) (k : Nat) : (bitByte c).getLsbD k = (decide (k = 0) && c) := by
  cases c
  · simp [bitByte]
  · cases k with
    | zero => rfl
    | succ k => simp [bitByte, BitVec.getLsbD_one]

theorem bitByte_getElem (c : Bool) (k : Nat) (hk : k < 8) : (bitByte c)[k] = (decide (k = 0) && c) := by
  rw [← BitVec.getLsbD_eq_getElem, bitByte_getLsbD]

theorem rotateLeft_bit (a : Byte) {k : Nat} (hk : k < 8) :
    (rotateLeft a).1.getLsbD k = if k = 0 then a.getLsbD 7 else a.getLsbD (k - 1) := by
  interval_cases k <;> simp [rotateLeft, bitByte_getElem]

theorem rotateRight_bit (a : Byte) {k : Nat} (hk : k < 8) :
    (rotateRight a).1.getLsbD k = if k = 7 then a.getLsbD 0 else a.getLsbD (k + 1) := by
  interval_cases k <;> simp [rotateRight, bitByte_getElem]

theorem rotateLeftCarry_bit (a : Byte) (cy : Bool) {k : Nat} (hk : k < 8) :
    (rotateLeftCarry a cy).1.getLsbD k = if k = 0 then cy else a.getLsbD (k - 1) := by
  interval_cases k <;> simp [rotateLeftCarry, bitByte_getElem]

theorem rotateRightCarry_bit (a : Byte) (cy : Bool) {k : Nat} (hk : k < 8) :
    (rotateRightCarry a cy).1.getLsbD k = if k = 7 then cy else a.getLsbD (k + 1) := by
  interval_cases k <;> simp [rotateRightCarry, bitByte_getElem]

/-- The bits of the flag byte (R32). -/
theorem flagByte_bits (f : Flags) :
    (flagByte f).getLsbD 7 = f.s ∧ (flagByte f).getLsbD 6 = f.z ∧ (flagByte f).getLsbD 5 = false ∧
    (flagByte f).getLsbD 4 = f.ac ∧ (flagByte f).getLsbD 3 = false ∧ (flagByte f).getLsbD 2 = f.p ∧
    (flagByte f).getLsbD 1 = true ∧ (flagByte f).getLsbD 0 = f.cy := by
  obtain ⟨z, s, p, cy, ac⟩ := f
  cases z <;> cases s <;> cases p <;> cases cy <;> cases ac <;> decide

/-- Popping the byte that was pushed gives the five flags back (R32). -/
@[simp] theorem flagsOfByte_flagByte (f : Flags) : flagsOfByte (flagByte f) = f := by
  obtain ⟨h7, h6, -, h4, -, h2, -, h0⟩ := flagByte_bits f
  simp only [flagsOfByte, h7, h6, h4, h2, h0]

end Sys2Proof.Machine
end

