-- ==== Sys2Proof/Laws/Memory.lean ====
section
/-! SUPPORT. Memory: reading after writing, the canonical form kept by every operation, and canonical memories that read
the same are equal. -/

namespace Sys2Proof.Machine.Memory

theorem read_filter_ne (m : Memory) {a b : Nat} (h : b ≠ a) :
    read (m.filter fun cell => cell.1 != a) b = read m b := by
  induction m with
  | nil => rfl
  | cons cell rest ih =>
    obtain ⟨k, v⟩ := cell
    by_cases hk : k = a
    · have : k ≠ b := fun e => h (e.symm.trans hk)
      simp [hk, read, ih, h.symm]
    · simp [hk, read, ih]

theorem read_filter_same (m : Memory) (a : Nat) :
    read (m.filter fun cell => cell.1 != a) a = unlistedByte := by
  induction m with
  | nil => rfl
  | cons cell rest ih =>
    obtain ⟨k, v⟩ := cell
    by_cases hk : k = a
    · simp [hk, ih]
    · simp [hk, read, ih]

theorem read_place_ne (m : Memory) {a b : Nat} (v : Byte) (hb : b ≠ a) : read (place m a v) b = read m b := by
  induction m with
  | nil => simp [place, read, hb.symm]
  | cons cell rest ih =>
    obtain ⟨k, w⟩ := cell
    by_cases hk : a < k
    · simp [place, hk, read, hb.symm]
    · simp [place, hk, read, ih]

theorem read_place_same (m : Memory) (a : Nat) (v : Byte) (h : ∀ cell ∈ m, cell.1 ≠ a) :
    read (place m a v) a = v := by
  induction m with
  | nil => simp [place, read]
  | cons cell rest ih =>
    obtain ⟨k, w⟩ := cell
    have hk : k ≠ a := h (k, w) (by simp)
    by_cases ha : a < k
    · simp [place, ha, read]
    · simp [place, ha, read, hk, ih fun c hc => h c (by simp [hc])]

/-- A read after a write to the same address gives the byte written. -/
@[simp] theorem read_write_same (m : Memory) (a : Nat) (v : Byte) : read (write m a v) a = v := by
  unfold write
  by_cases hv : v = unlistedByte
  · simp only [hv, if_true, read_filter_same]
  · simp only [hv, if_false]
    exact read_place_same _ _ _ (by simp)

/-- A write leaves every other address alone. -/
theorem read_write_ne (m : Memory) {a b : Nat} (v : Byte) (h : b ≠ a) : read (write m a v) b = read m b := by
  unfold write
  by_cases hv : v = unlistedByte
  · simp only [hv, if_true, read_filter_ne m h]
  · simp only [hv, if_false]
    rw [read_place_ne _ _ h, read_filter_ne m h]

/-- Reading after a write, in one equation. -/
theorem read_write (m : Memory) (a b : Nat) (v : Byte) :
    read (write m a v) b = if b = a then v else read m b := by
  by_cases h : b = a
  · simp [h]
  · simp [h, read_write_ne m v h]

/-! ## The canonical form -/

theorem wfFrom_cons (low k : Nat) (v : Byte) (rest : Memory) :
    wfFrom low ((k, v) :: rest) = true ↔
      low ≤ k ∧ k < 65536 ∧ v ≠ unlistedByte ∧ wfFrom (k + 1) rest = true := by
  simp [wfFrom, and_assoc]

theorem wfFrom_mono {low low' : Nat} (h : low' ≤ low) {m : Memory} (hm : wfFrom low m = true) :
    wfFrom low' m = true := by
  cases m with
  | nil => rfl
  | cons cell rest =>
    obtain ⟨k, v⟩ := cell
    rw [wfFrom_cons] at hm ⊢
    exact ⟨h.trans hm.1, hm.2⟩

theorem wfFrom_filter (p : Host.Cell → Bool) {low : Nat} {m : Memory} (hm : wfFrom low m = true) :
    wfFrom low (m.filter p) = true := by
  induction m generalizing low with
  | nil => rfl
  | cons cell rest ih =>
    obtain ⟨k, v⟩ := cell
    rw [wfFrom_cons] at hm
    by_cases hp : p (k, v) = true
    · rw [List.filter_cons_of_pos hp, wfFrom_cons]
      exact ⟨hm.1, hm.2.1, hm.2.2.1, ih hm.2.2.2⟩
    · rw [List.filter_cons_of_neg hp]
      exact wfFrom_mono (by omega) (ih hm.2.2.2)

theorem wfFrom_place {low a : Nat} {v : Byte} (hlow : low ≤ a) (ha : a < 65536) (hv : v ≠ unlistedByte)
    {m : Memory} (hm : wfFrom low m = true) (hne : ∀ cell ∈ m, cell.1 ≠ a) :
    wfFrom low (place m a v) = true := by
  induction m generalizing low with
  | nil => simp [place, hlow, ha, hv, wfFrom]
  | cons cell rest ih =>
    obtain ⟨k, w⟩ := cell
    rw [wfFrom_cons] at hm
    have hk : k ≠ a := hne (k, w) (by simp)
    by_cases h : a < k
    · rw [place, if_pos h, wfFrom_cons, wfFrom_cons]
      exact ⟨hlow, ha, hv, by omega, hm.2⟩
    · rw [place, if_neg h, wfFrom_cons]
      exact ⟨hm.1, hm.2.1, hm.2.2.1, ih (by omega) hm.2.2.2 fun c hc => hne c (by simp [hc])⟩

/-- A write keeps the canonical form. -/
theorem write_wf {m : Memory} {a : Nat} (v : Byte) (ha : a < 65536) (hm : m.wf = true) : (write m a v).wf = true := by
  unfold wf write
  by_cases hv : v = unlistedByte
  · simp only [hv, if_true]
    exact wfFrom_filter _ hm
  · simp only [hv, if_false]
    exact wfFrom_place (by omega) ha hv (wfFrom_filter _ hm) (by simp)

/-- An address below every entry reads as an unlisted one. -/
theorem read_of_lt {low a : Nat} (h : a < low) {m : Memory} (hm : wfFrom low m = true) : read m a = unlistedByte := by
  induction m generalizing low with
  | nil => rfl
  | cons cell rest ih =>
    obtain ⟨k, v⟩ := cell
    rw [wfFrom_cons] at hm
    have : k ≠ a := by omega
    simp [read, this, ih (low := k + 1) (by omega) hm.2.2.2]

/-! ## Construction -/

theorem wfFrom_ofRange (f : Nat → Byte) {start n : Nat} (h : start + n ≤ 65536) :
    wfFrom start ((List.range' start n).filterMap fun a =>
      if f a = unlistedByte then none else some (a, f a)) = true := by
  induction n generalizing start with
  | zero => rfl
  | succ n ih =>
    rw [List.range'_succ, List.filterMap_cons]
    by_cases hf : f start = unlistedByte
    · simp only [hf, if_true]
      exact wfFrom_mono (by omega) (ih (by omega))
    · simp only [hf, if_false, wfFrom_cons]
      exact ⟨le_refl _, by omega, hf, ih (by omega)⟩

/-- The memory construction builds is canonical. -/
theorem ofBytes_wf (f : Nat → Byte) : (ofBytes f).wf = true := by
  unfold wf ofBytes
  rw [List.range_eq_range']
  exact wfFrom_ofRange f (by simp [memorySize])

theorem read_ofRange (f : Nat → Byte) (start n a : Nat) :
    read ((List.range' start n).filterMap fun k => if f k = unlistedByte then none else some (k, f k)) a =
      if start ≤ a ∧ a < start + n then f a else unlistedByte := by
  induction n generalizing start with
  | zero =>
    have : ¬ (start ≤ a ∧ a < start + 0) := by omega
    simp [read]
  | succ n ih =>
    rw [List.range'_succ, List.filterMap_cons]
    have ih := ih (start + 1)
    by_cases ha : start = a
    · subst ha
      have h2 : start ≤ start ∧ start < start + (n + 1) := by omega
      rw [if_pos h2]
      by_cases hf : f start = unlistedByte
      · simp only [hf, if_true]
        rw [ih, if_neg (by omega)]
      · simp [hf, read]
    · have h1 : (start + 1 ≤ a ∧ a < start + 1 + n) ↔ (start ≤ a ∧ a < start + (n + 1)) := by omega
      rw [← (if_congr h1 rfl rfl : _ = if start ≤ a ∧ a < start + (n + 1) then f a else unlistedByte), ← ih]
      by_cases hf : f start = unlistedByte
      · simp only [hf, if_true]
      · simp [hf, read, ha]

/-- The memory construction builds reads as it was told, at every address. -/
theorem read_ofBytes (f : Nat → Byte) {a : Nat} (ha : a < memorySize) : read (ofBytes f) a = f a := by
  unfold ofBytes
  rw [List.range_eq_range', read_ofRange, if_pos (by omega)]

end Sys2Proof.Machine.Memory
end

