-- ==== Sys2Proof/Laws/State.lean ====
section
/-! SUPPORT. One lemma per field per update of State, each true by definition, so that no later proof unfolds a record
update; and what each update does to the accessors `reg`, `readMem`, `pair` and `fetch`. -/

namespace Sys2Proof.Machine.State

variable (s : State)

/-! ### setReg -/

@[simp] theorem setReg_regs (r : Reg) (v : Byte) : (s.setReg r v).regs = s.regs.set r v := rfl
@[simp] theorem setReg_sp (r : Reg) (v : Byte) : (s.setReg r v).sp = s.sp := rfl
@[simp] theorem setReg_pc (r : Reg) (v : Byte) : (s.setReg r v).pc = s.pc := rfl
@[simp] theorem setReg_flags (r : Reg) (v : Byte) : (s.setReg r v).flags = s.flags := rfl
@[simp] theorem setReg_ie (r : Reg) (v : Byte) : (s.setReg r v).ie = s.ie := rfl
@[simp] theorem setReg_mem (r : Reg) (v : Byte) : (s.setReg r v).mem = s.mem := rfl
@[simp] theorem setReg_run (r : Reg) (v : Byte) : (s.setReg r v).run = s.run := rfl
@[simp] theorem setReg_result (r : Reg) (v : Byte) : (s.setReg r v).result = s.result := rfl
@[simp] theorem setReg_ioOut (r : Reg) (v : Byte) : (s.setReg r v).ioOut = s.ioOut := rfl
@[simp] theorem setReg_inCount (r : Reg) (v : Byte) : (s.setReg r v).inCount = s.inCount := rfl
@[simp] theorem setReg_config (r : Reg) (v : Byte) : (s.setReg r v).config = s.config := rfl
@[simp] theorem setReg_readMem (r : Reg) (v : Byte) (x : Word) : (s.setReg r v).readMem x = s.readMem x := rfl
@[simp] theorem setReg_readWord (r : Reg) (v : Byte) (x : Word) : (s.setReg r v).readWord x = s.readWord x := rfl

/-! ### setSp -/

@[simp] theorem setSp_regs (v : Word) : (s.setSp v).regs = s.regs := rfl
@[simp] theorem setSp_sp (v : Word) : (s.setSp v).sp = v := rfl
@[simp] theorem setSp_pc (v : Word) : (s.setSp v).pc = s.pc := rfl
@[simp] theorem setSp_flags (v : Word) : (s.setSp v).flags = s.flags := rfl
@[simp] theorem setSp_ie (v : Word) : (s.setSp v).ie = s.ie := rfl
@[simp] theorem setSp_mem (v : Word) : (s.setSp v).mem = s.mem := rfl
@[simp] theorem setSp_run (v : Word) : (s.setSp v).run = s.run := rfl
@[simp] theorem setSp_result (v : Word) : (s.setSp v).result = s.result := rfl
@[simp] theorem setSp_ioOut (v : Word) : (s.setSp v).ioOut = s.ioOut := rfl
@[simp] theorem setSp_inCount (v : Word) : (s.setSp v).inCount = s.inCount := rfl
@[simp] theorem setSp_config (v : Word) : (s.setSp v).config = s.config := rfl
@[simp] theorem setSp_reg (v : Word) (x : Reg) : (s.setSp v).reg x = s.reg x := rfl
@[simp] theorem setSp_readMem (v : Word) (x : Word) : (s.setSp v).readMem x = s.readMem x := rfl
@[simp] theorem setSp_readWord (v : Word) (x : Word) : (s.setSp v).readWord x = s.readWord x := rfl
@[simp] theorem setSp_hl (v : Word) : (s.setSp v).hl = s.hl := rfl

/-! ### setPc -/

@[simp] theorem setPc_regs (v : Word) : (s.setPc v).regs = s.regs := rfl
@[simp] theorem setPc_sp (v : Word) : (s.setPc v).sp = s.sp := rfl
@[simp] theorem setPc_pc (v : Word) : (s.setPc v).pc = v := rfl
@[simp] theorem setPc_flags (v : Word) : (s.setPc v).flags = s.flags := rfl
@[simp] theorem setPc_ie (v : Word) : (s.setPc v).ie = s.ie := rfl
@[simp] theorem setPc_mem (v : Word) : (s.setPc v).mem = s.mem := rfl
@[simp] theorem setPc_run (v : Word) : (s.setPc v).run = s.run := rfl
@[simp] theorem setPc_result (v : Word) : (s.setPc v).result = s.result := rfl
@[simp] theorem setPc_ioOut (v : Word) : (s.setPc v).ioOut = s.ioOut := rfl
@[simp] theorem setPc_inCount (v : Word) : (s.setPc v).inCount = s.inCount := rfl
@[simp] theorem setPc_config (v : Word) : (s.setPc v).config = s.config := rfl
@[simp] theorem setPc_reg (v : Word) (x : Reg) : (s.setPc v).reg x = s.reg x := rfl
@[simp] theorem setPc_readMem (v : Word) (x : Word) : (s.setPc v).readMem x = s.readMem x := rfl
@[simp] theorem setPc_readWord (v : Word) (x : Word) : (s.setPc v).readWord x = s.readWord x := rfl
@[simp] theorem setPc_pair (v : Word) (x : RegPair) : (s.setPc v).pair x = s.pair x := by cases x <;> rfl
@[simp] theorem setPc_hl (v : Word) : (s.setPc v).hl = s.hl := rfl

/-! ### advance -/

@[simp] theorem advance_regs (n : Word) : (s.advance n).regs = s.regs := rfl
@[simp] theorem advance_sp (n : Word) : (s.advance n).sp = s.sp := rfl
@[simp] theorem advance_pc (n : Word) : (s.advance n).pc = s.pc + n := rfl
@[simp] theorem advance_flags (n : Word) : (s.advance n).flags = s.flags := rfl
@[simp] theorem advance_ie (n : Word) : (s.advance n).ie = s.ie := rfl
@[simp] theorem advance_mem (n : Word) : (s.advance n).mem = s.mem := rfl
@[simp] theorem advance_run (n : Word) : (s.advance n).run = s.run := rfl
@[simp] theorem advance_result (n : Word) : (s.advance n).result = s.result := rfl
@[simp] theorem advance_ioOut (n : Word) : (s.advance n).ioOut = s.ioOut := rfl
@[simp] theorem advance_inCount (n : Word) : (s.advance n).inCount = s.inCount := rfl
@[simp] theorem advance_config (n : Word) : (s.advance n).config = s.config := rfl
@[simp] theorem advance_reg (n : Word) (x : Reg) : (s.advance n).reg x = s.reg x := rfl
@[simp] theorem advance_readMem (n : Word) (x : Word) : (s.advance n).readMem x = s.readMem x := rfl
@[simp] theorem advance_readWord (n : Word) (x : Word) : (s.advance n).readWord x = s.readWord x := rfl
@[simp] theorem advance_pair (n : Word) (x : RegPair) : (s.advance n).pair x = s.pair x := by cases x <;> rfl
@[simp] theorem advance_hl (n : Word) : (s.advance n).hl = s.hl := rfl

/-! ### setFlags -/

@[simp] theorem setFlags_regs (f : Flags) : (s.setFlags f).regs = s.regs := rfl
@[simp] theorem setFlags_sp (f : Flags) : (s.setFlags f).sp = s.sp := rfl
@[simp] theorem setFlags_pc (f : Flags) : (s.setFlags f).pc = s.pc := rfl
@[simp] theorem setFlags_flags (f : Flags) : (s.setFlags f).flags = f := rfl
@[simp] theorem setFlags_ie (f : Flags) : (s.setFlags f).ie = s.ie := rfl
@[simp] theorem setFlags_mem (f : Flags) : (s.setFlags f).mem = s.mem := rfl
@[simp] theorem setFlags_run (f : Flags) : (s.setFlags f).run = s.run := rfl
@[simp] theorem setFlags_result (f : Flags) : (s.setFlags f).result = s.result := rfl
@[simp] theorem setFlags_ioOut (f : Flags) : (s.setFlags f).ioOut = s.ioOut := rfl
@[simp] theorem setFlags_inCount (f : Flags) : (s.setFlags f).inCount = s.inCount := rfl
@[simp] theorem setFlags_config (f : Flags) : (s.setFlags f).config = s.config := rfl
@[simp] theorem setFlags_reg (f : Flags) (x : Reg) : (s.setFlags f).reg x = s.reg x := rfl
@[simp] theorem setFlags_readMem (f : Flags) (x : Word) : (s.setFlags f).readMem x = s.readMem x := rfl
@[simp] theorem setFlags_readWord (f : Flags) (x : Word) : (s.setFlags f).readWord x = s.readWord x := rfl
@[simp] theorem setFlags_pair (f : Flags) (x : RegPair) : (s.setFlags f).pair x = s.pair x := by cases x <;> rfl
@[simp] theorem setFlags_hl (f : Flags) : (s.setFlags f).hl = s.hl := rfl

/-! ### setCy -/

@[simp] theorem setCy_regs (v : Bool) : (s.setCy v).regs = s.regs := rfl
@[simp] theorem setCy_sp (v : Bool) : (s.setCy v).sp = s.sp := rfl
@[simp] theorem setCy_pc (v : Bool) : (s.setCy v).pc = s.pc := rfl
@[simp] theorem setCy_flags (v : Bool) : (s.setCy v).flags = { s.flags with cy := v } := rfl
@[simp] theorem setCy_ie (v : Bool) : (s.setCy v).ie = s.ie := rfl
@[simp] theorem setCy_mem (v : Bool) : (s.setCy v).mem = s.mem := rfl
@[simp] theorem setCy_run (v : Bool) : (s.setCy v).run = s.run := rfl
@[simp] theorem setCy_result (v : Bool) : (s.setCy v).result = s.result := rfl
@[simp] theorem setCy_ioOut (v : Bool) : (s.setCy v).ioOut = s.ioOut := rfl
@[simp] theorem setCy_inCount (v : Bool) : (s.setCy v).inCount = s.inCount := rfl
@[simp] theorem setCy_config (v : Bool) : (s.setCy v).config = s.config := rfl
@[simp] theorem setCy_reg (v : Bool) (x : Reg) : (s.setCy v).reg x = s.reg x := rfl
@[simp] theorem setCy_readMem (v : Bool) (x : Word) : (s.setCy v).readMem x = s.readMem x := rfl
@[simp] theorem setCy_readWord (v : Bool) (x : Word) : (s.setCy v).readWord x = s.readWord x := rfl
@[simp] theorem setCy_pair (v : Bool) (x : RegPair) : (s.setCy v).pair x = s.pair x := by cases x <;> rfl
@[simp] theorem setCy_hl (v : Bool) : (s.setCy v).hl = s.hl := rfl

/-! ### setIe -/

@[simp] theorem setIe_regs (v : Bool) : (s.setIe v).regs = s.regs := rfl
@[simp] theorem setIe_sp (v : Bool) : (s.setIe v).sp = s.sp := rfl
@[simp] theorem setIe_pc (v : Bool) : (s.setIe v).pc = s.pc := rfl
@[simp] theorem setIe_flags (v : Bool) : (s.setIe v).flags = s.flags := rfl
@[simp] theorem setIe_ie (v : Bool) : (s.setIe v).ie = v := rfl
@[simp] theorem setIe_mem (v : Bool) : (s.setIe v).mem = s.mem := rfl
@[simp] theorem setIe_run (v : Bool) : (s.setIe v).run = s.run := rfl
@[simp] theorem setIe_result (v : Bool) : (s.setIe v).result = s.result := rfl
@[simp] theorem setIe_ioOut (v : Bool) : (s.setIe v).ioOut = s.ioOut := rfl
@[simp] theorem setIe_inCount (v : Bool) : (s.setIe v).inCount = s.inCount := rfl
@[simp] theorem setIe_config (v : Bool) : (s.setIe v).config = s.config := rfl
@[simp] theorem setIe_reg (v : Bool) (x : Reg) : (s.setIe v).reg x = s.reg x := rfl
@[simp] theorem setIe_readMem (v : Bool) (x : Word) : (s.setIe v).readMem x = s.readMem x := rfl
@[simp] theorem setIe_readWord (v : Bool) (x : Word) : (s.setIe v).readWord x = s.readWord x := rfl
@[simp] theorem setIe_pair (v : Bool) (x : RegPair) : (s.setIe v).pair x = s.pair x := by cases x <;> rfl
@[simp] theorem setIe_hl (v : Bool) : (s.setIe v).hl = s.hl := rfl

/-! ### writeMem -/

@[simp] theorem writeMem_regs (a : Word) (v : Byte) : (s.writeMem a v).regs = s.regs := rfl
@[simp] theorem writeMem_sp (a : Word) (v : Byte) : (s.writeMem a v).sp = s.sp := rfl
@[simp] theorem writeMem_pc (a : Word) (v : Byte) : (s.writeMem a v).pc = s.pc := rfl
@[simp] theorem writeMem_flags (a : Word) (v : Byte) : (s.writeMem a v).flags = s.flags := rfl
@[simp] theorem writeMem_ie (a : Word) (v : Byte) : (s.writeMem a v).ie = s.ie := rfl
@[simp] theorem writeMem_mem (a : Word) (v : Byte) : (s.writeMem a v).mem = Memory.write s.mem a.toNat v := rfl
@[simp] theorem writeMem_run (a : Word) (v : Byte) : (s.writeMem a v).run = s.run := rfl
@[simp] theorem writeMem_result (a : Word) (v : Byte) : (s.writeMem a v).result = s.result := rfl
@[simp] theorem writeMem_ioOut (a : Word) (v : Byte) : (s.writeMem a v).ioOut = s.ioOut := rfl
@[simp] theorem writeMem_inCount (a : Word) (v : Byte) : (s.writeMem a v).inCount = s.inCount := rfl
@[simp] theorem writeMem_config (a : Word) (v : Byte) : (s.writeMem a v).config = s.config := rfl
@[simp] theorem writeMem_reg (a : Word) (v : Byte) (x : Reg) : (s.writeMem a v).reg x = s.reg x := rfl
@[simp] theorem writeMem_pair (a : Word) (v : Byte) (x : RegPair) : (s.writeMem a v).pair x = s.pair x := by cases x <;> rfl
@[simp] theorem writeMem_hl (a : Word) (v : Byte) : (s.writeMem a v).hl = s.hl := rfl

/-! ### emit -/

@[simp] theorem emit_regs (port v : Byte) : (s.emit port v).regs = s.regs := rfl
@[simp] theorem emit_sp (port v : Byte) : (s.emit port v).sp = s.sp := rfl
@[simp] theorem emit_pc (port v : Byte) : (s.emit port v).pc = s.pc := rfl
@[simp] theorem emit_flags (port v : Byte) : (s.emit port v).flags = s.flags := rfl
@[simp] theorem emit_ie (port v : Byte) : (s.emit port v).ie = s.ie := rfl
@[simp] theorem emit_mem (port v : Byte) : (s.emit port v).mem = s.mem := rfl
@[simp] theorem emit_run (port v : Byte) : (s.emit port v).run = s.run := rfl
@[simp] theorem emit_result (port v : Byte) : (s.emit port v).result = s.result := rfl
@[simp] theorem emit_ioOut (port v : Byte) : (s.emit port v).ioOut = s.ioOut ++ [(port, v)] := rfl
@[simp] theorem emit_inCount (port v : Byte) : (s.emit port v).inCount = s.inCount := rfl
@[simp] theorem emit_config (port v : Byte) : (s.emit port v).config = s.config := rfl
@[simp] theorem emit_reg (port v : Byte) (x : Reg) : (s.emit port v).reg x = s.reg x := rfl
@[simp] theorem emit_readMem (port v : Byte) (x : Word) : (s.emit port v).readMem x = s.readMem x := rfl
@[simp] theorem emit_readWord (port v : Byte) (x : Word) : (s.emit port v).readWord x = s.readWord x := rfl
@[simp] theorem emit_pair (port v : Byte) (x : RegPair) : (s.emit port v).pair x = s.pair x := by cases x <;> rfl
@[simp] theorem emit_hl (port v : Byte) : (s.emit port v).hl = s.hl := rfl

/-! ### countIn -/

@[simp] theorem countIn_regs : s.countIn.regs = s.regs := rfl
@[simp] theorem countIn_sp : s.countIn.sp = s.sp := rfl
@[simp] theorem countIn_pc : s.countIn.pc = s.pc := rfl
@[simp] theorem countIn_flags : s.countIn.flags = s.flags := rfl
@[simp] theorem countIn_ie : s.countIn.ie = s.ie := rfl
@[simp] theorem countIn_mem : s.countIn.mem = s.mem := rfl
@[simp] theorem countIn_run : s.countIn.run = s.run := rfl
@[simp] theorem countIn_result : s.countIn.result = s.result := rfl
@[simp] theorem countIn_ioOut : s.countIn.ioOut = s.ioOut := rfl
@[simp] theorem countIn_inCount : s.countIn.inCount = s.inCount + 1 := rfl
@[simp] theorem countIn_config : s.countIn.config = s.config := rfl
@[simp] theorem countIn_reg (x : Reg) : s.countIn.reg x = s.reg x := rfl
@[simp] theorem countIn_readMem (x : Word) : s.countIn.readMem x = s.readMem x := rfl
@[simp] theorem countIn_readWord (x : Word) : s.countIn.readWord x = s.readWord x := rfl
@[simp] theorem countIn_pair (x : RegPair) : s.countIn.pair x = s.pair x := by cases x <;> rfl
@[simp] theorem countIn_hl : s.countIn.hl = s.hl := rfl

/-! ### stop -/

@[simp] theorem stop_regs (r : StepResult) : (s.stop r).regs = s.regs := rfl
@[simp] theorem stop_sp (r : StepResult) : (s.stop r).sp = s.sp := rfl
@[simp] theorem stop_pc (r : StepResult) : (s.stop r).pc = s.pc := rfl
@[simp] theorem stop_flags (r : StepResult) : (s.stop r).flags = s.flags := rfl
@[simp] theorem stop_ie (r : StepResult) : (s.stop r).ie = s.ie := rfl
@[simp] theorem stop_mem (r : StepResult) : (s.stop r).mem = s.mem := rfl
@[simp] theorem stop_run (r : StepResult) : (s.stop r).run = .halted := rfl
@[simp] theorem stop_result (r : StepResult) : (s.stop r).result = r := rfl
@[simp] theorem stop_ioOut (r : StepResult) : (s.stop r).ioOut = s.ioOut := rfl
@[simp] theorem stop_inCount (r : StepResult) : (s.stop r).inCount = s.inCount := rfl
@[simp] theorem stop_config (r : StepResult) : (s.stop r).config = s.config := rfl
@[simp] theorem stop_reg (r : StepResult) (x : Reg) : (s.stop r).reg x = s.reg x := rfl
@[simp] theorem stop_readMem (r : StepResult) (x : Word) : (s.stop r).readMem x = s.readMem x := rfl
@[simp] theorem stop_readWord (r : StepResult) (x : Word) : (s.stop r).readWord x = s.readWord x := rfl
@[simp] theorem stop_pair (r : StepResult) (x : RegPair) : (s.stop r).pair x = s.pair x := by cases x <;> rfl
@[simp] theorem stop_hl (r : StepResult) : (s.stop r).hl = s.hl := rfl

end Sys2Proof.Machine.State
end

