-- ==== Sys2Proof/Laws/Ops.lean ====
section
/-! SUPPORT. What the shared operations do: registers, memory bytes and words, pairs, the stack. -/

namespace Sys2Proof.Machine

/-! ## Registers -/

@[simp] theorem Regs.get_set_same (x : Regs) (r : Reg) (v : Byte) : (x.set r v).get r = v := by
  cases r <;> rfl

@[simp] theorem Regs.get_set_ne (x : Regs) {r q : Reg} (v : Byte) (h : q ≠ r) : (x.set r v).get q = x.get q := by
  cases r <;> cases q <;> first | exact absurd rfl h | rfl

namespace State

variable (s : State)

@[simp] theorem reg_setReg_same (r : Reg) (v : Byte) : (s.setReg r v).reg r = v := Regs.get_set_same _ _ _

@[simp] theorem reg_setReg_ne {r q : Reg} (v : Byte) (h : q ≠ r) : (s.setReg r v).reg q = s.reg q :=
  Regs.get_set_ne _ _ h

/-- Reading a register after a register write, in one equation. -/
theorem reg_setReg (r q : Reg) (v : Byte) : (s.setReg r v).reg q = if q = r then v else s.reg q := by
  by_cases h : q = r
  · simp [h]
  · simp [h]

/-! ## Memory -/

@[simp] theorem readMem_writeMem_same (a : Word) (v : Byte) : (s.writeMem a v).readMem a = v :=
  Memory.read_write_same _ _ _

@[simp] theorem readMem_writeMem_ne {a b : Word} (v : Byte) (h : b ≠ a) : (s.writeMem a v).readMem b = s.readMem b :=
  Memory.read_write_ne _ _ fun e => h (BitVec.eq_of_toNat_eq e)

/-- Reading a byte after a byte write, in one equation (R62). -/
theorem readMem_writeMem (a b : Word) (v : Byte) :
    (s.writeMem a v).readMem b = if b = a then v else s.readMem b := by
  by_cases h : b = a
  · simp [h]
  · simp [h]

/-- A byte write keeps the canonical form of memory. -/
theorem writeMem_wf {s : State} (h : s.mem.wf = true) (a : Word) (v : Byte) : (s.writeMem a v).mem.wf = true :=
  Memory.write_wf v a.isLt h

/-- Memory after reset is canonical. -/
theorem reset_wf : State.reset.mem.wf = true := rfl

/-- The two addresses of a 16-bit access differ. -/
theorem add_one_ne (a : Word) : a + 1 ≠ a := by
  intro h
  bv_omega

/-- The addresses of the two bytes of a push differ. -/
theorem sub_one_ne_sub_two (a : Word) : a - 1 ≠ a - 2 := by
  have h := add_one_ne (a - 2)
  have e : a - 2 + 1 = a - 1 := by bv_omega
  rwa [e] at h

/-- A 16-bit store in terms of byte reads. -/
theorem readMem_writeWord (a v b : Word) :
    (s.writeWord a v).readMem b = if b = a + 1 then hiByte v else if b = a then loByte v else s.readMem b := by
  simp only [writeWord, readMem_writeMem]

theorem writeWord_wf {s : State} (h : s.mem.wf = true) (a v : Word) : (s.writeWord a v).mem.wf = true :=
  writeMem_wf (writeMem_wf h a _) _ _

theorem writeBytes_wf {s : State} (h : s.mem.wf = true) (a : Word) (bs : List Byte) :
    (s.writeBytes a bs).mem.wf = true := by
  induction bs generalizing s a with
  | nil => exact h
  | cons v rest ih => exact ih (writeMem_wf h a v) (a + 1)

/-! ## Pairs -/

@[simp] theorem pair_setPair_same (p : RegPair) (v : Word) : (s.setPair p v).pair p = v := by
  cases p <;> simp [setPair, pair]

/-- Writing one pair leaves the others. -/
theorem pair_setPair_ne {p q : RegPair} (v : Word) (h : q ≠ p) : (s.setPair p v).pair q = s.pair q := by
  cases p <;> cases q <;> first | exact absurd rfl h | rfl

theorem hl_eq : s.hl = mkWord (s.reg .h) (s.reg .l) := rfl

/-- A pair write changes its own registers only. -/
theorem reg_setPair (p : RegPair) (v : Word) (r : Reg) :
    (s.setPair p v).reg r =
      match p with
      | .b => if r = .b then hiByte v else if r = .c then loByte v else s.reg r
      | .d => if r = .d then hiByte v else if r = .e then loByte v else s.reg r
      | .h => if r = .h then hiByte v else if r = .l then loByte v else s.reg r
      | .sp => s.reg r := by
  cases p <;> cases r <;> rfl

theorem setPair_sp_field (p : RegPair) (v : Word) :
    (s.setPair p v).sp = match p with | .sp => v | .b => s.sp | .d => s.sp | .h => s.sp := by
  cases p <;> rfl

@[simp] theorem setPair_readMem (p : RegPair) (v x : Word) : (s.setPair p v).readMem x = s.readMem x := by
  cases p <;> rfl
@[simp] theorem setPair_pc (p : RegPair) (v : Word) : (s.setPair p v).pc = s.pc := by cases p <;> rfl
@[simp] theorem setPair_flags (p : RegPair) (v : Word) : (s.setPair p v).flags = s.flags := by cases p <;> rfl
@[simp] theorem setPair_ie (p : RegPair) (v : Word) : (s.setPair p v).ie = s.ie := by cases p <;> rfl
@[simp] theorem setPair_mem (p : RegPair) (v : Word) : (s.setPair p v).mem = s.mem := by cases p <;> rfl
@[simp] theorem setPair_run (p : RegPair) (v : Word) : (s.setPair p v).run = s.run := by cases p <;> rfl
@[simp] theorem setPair_result (p : RegPair) (v : Word) : (s.setPair p v).result = s.result := by cases p <;> rfl
@[simp] theorem setPair_ioOut (p : RegPair) (v : Word) : (s.setPair p v).ioOut = s.ioOut := by cases p <;> rfl
@[simp] theorem setPair_inCount (p : RegPair) (v : Word) : (s.setPair p v).inCount = s.inCount := by cases p <;> rfl
@[simp] theorem setPair_config (p : RegPair) (v : Word) : (s.setPair p v).config = s.config := by cases p <;> rfl

/-! ## The stack -/

/-- A push in terms of byte reads (R60). -/
theorem readMem_push16 (v b : Word) :
    (s.push16 v).readMem b =
      if b = s.sp - 2 then loByte v else if b = s.sp - 1 then hiByte v else s.readMem b := by
  simp only [push16, setSp_readMem, readMem_writeMem]

@[simp] theorem push16_sp (v : Word) : (s.push16 v).sp = s.sp - 2 := rfl
@[simp] theorem push16_regs (v : Word) : (s.push16 v).regs = s.regs := rfl
@[simp] theorem push16_reg (v : Word) (r : Reg) : (s.push16 v).reg r = s.reg r := rfl
@[simp] theorem push16_pc (v : Word) : (s.push16 v).pc = s.pc := rfl
@[simp] theorem push16_flags (v : Word) : (s.push16 v).flags = s.flags := rfl
@[simp] theorem push16_ie (v : Word) : (s.push16 v).ie = s.ie := rfl
@[simp] theorem push16_run (v : Word) : (s.push16 v).run = s.run := rfl
@[simp] theorem push16_result (v : Word) : (s.push16 v).result = s.result := rfl
@[simp] theorem push16_ioOut (v : Word) : (s.push16 v).ioOut = s.ioOut := rfl
@[simp] theorem push16_inCount (v : Word) : (s.push16 v).inCount = s.inCount := rfl
@[simp] theorem push16_config (v : Word) : (s.push16 v).config = s.config := rfl

theorem push16_wf {s : State} (h : s.mem.wf = true) (v : Word) : (s.push16 v).mem.wf = true :=
  writeMem_wf (writeMem_wf h _ _) _ _

/-- What was pushed is on top of the stack (R61). -/
@[simp] theorem top16_push16 (v : Word) : (s.push16 v).top16 = v := by
  have h2 : s.sp - 2 + 1 = s.sp - 1 := by bv_omega
  show mkWord ((s.push16 v).readMem (s.sp - 2 + 1)) ((s.push16 v).readMem (s.sp - 2)) = v
  rw [h2, readMem_push16, readMem_push16, if_neg (sub_one_ne_sub_two s.sp), if_pos rfl, if_pos rfl,
    mkWord_hiByte_loByte]

theorem top16_eq : s.top16 = mkWord (s.readMem (s.sp + 1)) (s.readMem s.sp) := rfl

@[simp] theorem pop16_sp : s.pop16.sp = s.sp + 2 := rfl
@[simp] theorem pop16_regs : s.pop16.regs = s.regs := rfl
@[simp] theorem pop16_reg (r : Reg) : s.pop16.reg r = s.reg r := rfl
@[simp] theorem pop16_readMem (a : Word) : s.pop16.readMem a = s.readMem a := rfl
@[simp] theorem pop16_pc : s.pop16.pc = s.pc := rfl
@[simp] theorem pop16_flags : s.pop16.flags = s.flags := rfl
@[simp] theorem pop16_ie : s.pop16.ie = s.ie := rfl
@[simp] theorem pop16_mem : s.pop16.mem = s.mem := rfl
@[simp] theorem pop16_run : s.pop16.run = s.run := rfl
@[simp] theorem pop16_result : s.pop16.result = s.result := rfl
@[simp] theorem pop16_ioOut : s.pop16.ioOut = s.ioOut := rfl
@[simp] theorem pop16_inCount : s.pop16.inCount = s.inCount := rfl
@[simp] theorem pop16_config : s.pop16.config = s.config := rfl

/-! ## Operand locations -/

@[simp] theorem readLoc_reg (r : Reg) : s.readLoc (.reg r) = s.reg r := rfl
@[simp] theorem readLoc_m : s.readLoc .m = s.readMem s.hl := rfl
@[simp] theorem writeLoc_reg (r : Reg) (v : Byte) : s.writeLoc (.reg r) v = s.setReg r v := rfl
@[simp] theorem writeLoc_m (v : Byte) : s.writeLoc .m v = s.writeMem s.hl v := rfl

end State

end Sys2Proof.Machine
end

