-- ==== Sys2Proof/Laws/PerInstr.lean ====
section
/-! SUPPORT. The length of an instruction's encoding, constructor by constructor: as many bytes as the rule R88 gives its
opcode byte. -/

namespace Sys2Proof.Laws.EncodeLength

/-- A well-formed instruction encodes to as many bytes as its opcode byte says (in the row's format, an unassigned byte
is one byte). -/
def Statement (i : Instr) : Prop :=
  i.wellFormed = true → (encode i).length = opcodeLength .faulting (opcode i)

theorem movRR (dst src : Reg) : Statement (.movRR dst src) := by
  cases dst <;> cases src <;> exact fun _ => rfl

theorem movRM (dst : Reg) : Statement (.movRM dst) := by
  cases dst <;> exact fun _ => rfl

theorem movMR (src : Reg) : Statement (.movMR src) := by
  cases src <;> exact fun _ => rfl

theorem mviR (dst : Reg) (d8 : Byte) : Statement (.mviR dst d8) := by
  intro _
  have h : opcode (.mviR dst d8) = withDdd 6 dst.code := rfl
  rw [h]
  cases dst <;> rfl

theorem mviM (d8 : Byte) : Statement (.mviM d8) := fun _ => by
  simp only [opcode]
  rfl

theorem lxi (rp : RegPair) (d16 : Word) : Statement (.lxi rp d16) := by
  intro _
  have h : opcode (.lxi rp d16) = withRp 1 rp.code := rfl
  rw [h]
  cases rp <;> rfl

theorem lda (a16 : Word) : Statement (.lda a16) := fun _ => by
  simp only [opcode]
  rfl

theorem sta (a16 : Word) : Statement (.sta a16) := fun _ => by
  simp only [opcode]
  rfl

theorem lhld (a16 : Word) : Statement (.lhld a16) := fun _ => by
  simp only [opcode]
  rfl

theorem shld (a16 : Word) : Statement (.shld a16) := fun _ => by
  simp only [opcode]
  rfl

theorem ldax (rp : RegPair) : Statement (.ldax rp) := by
  cases rp <;> first | (intro h; cases h; done) | exact fun _ => rfl

theorem stax (rp : RegPair) : Statement (.stax rp) := by
  cases rp <;> first | (intro h; cases h; done) | exact fun _ => rfl

theorem xchg : Statement .xchg := fun _ => rfl

theorem addR (src : Reg) : Statement (.addR src) := by
  cases src <;> exact fun _ => rfl

theorem addM : Statement .addM := fun _ => rfl

theorem adi (d8 : Byte) : Statement (.adi d8) := fun _ => by
  simp only [opcode]
  rfl

theorem adcR (src : Reg) : Statement (.adcR src) := by
  cases src <;> exact fun _ => rfl

theorem adcM : Statement .adcM := fun _ => rfl

theorem aci (d8 : Byte) : Statement (.aci d8) := fun _ => by
  simp only [opcode]
  rfl

theorem subR (src : Reg) : Statement (.subR src) := by
  cases src <;> exact fun _ => rfl

theorem subM : Statement .subM := fun _ => rfl

theorem sui (d8 : Byte) : Statement (.sui d8) := fun _ => by
  simp only [opcode]
  rfl

theorem sbbR (src : Reg) : Statement (.sbbR src) := by
  cases src <;> exact fun _ => rfl

theorem sbbM : Statement .sbbM := fun _ => rfl

theorem sbi (d8 : Byte) : Statement (.sbi d8) := fun _ => by
  simp only [opcode]
  rfl

theorem inrR (r : Reg) : Statement (.inrR r) := by
  cases r <;> exact fun _ => rfl

theorem inrM : Statement .inrM := fun _ => rfl

theorem dcrR (r : Reg) : Statement (.dcrR r) := by
  cases r <;> exact fun _ => rfl

theorem dcrM : Statement .dcrM := fun _ => rfl

theorem inx (rp : RegPair) : Statement (.inx rp) := by
  cases rp <;> exact fun _ => rfl

theorem dcx (rp : RegPair) : Statement (.dcx rp) := by
  cases rp <;> exact fun _ => rfl

theorem dad (rp : RegPair) : Statement (.dad rp) := by
  cases rp <;> exact fun _ => rfl

theorem daa : Statement .daa := fun _ => rfl

theorem anaR (src : Reg) : Statement (.anaR src) := by
  cases src <;> exact fun _ => rfl

theorem anaM : Statement .anaM := fun _ => rfl

theorem ani (d8 : Byte) : Statement (.ani d8) := fun _ => by
  simp only [opcode]
  rfl

theorem xraR (src : Reg) : Statement (.xraR src) := by
  cases src <;> exact fun _ => rfl

theorem xraM : Statement .xraM := fun _ => rfl

theorem xri (d8 : Byte) : Statement (.xri d8) := fun _ => by
  simp only [opcode]
  rfl

theorem oraR (src : Reg) : Statement (.oraR src) := by
  cases src <;> exact fun _ => rfl

theorem oraM : Statement .oraM := fun _ => rfl

theorem ori (d8 : Byte) : Statement (.ori d8) := fun _ => by
  simp only [opcode]
  rfl

theorem cmpR (src : Reg) : Statement (.cmpR src) := by
  cases src <;> exact fun _ => rfl

theorem cmpM : Statement .cmpM := fun _ => rfl

theorem cpi (d8 : Byte) : Statement (.cpi d8) := fun _ => by
  simp only [opcode]
  rfl

theorem rlc : Statement .rlc := fun _ => rfl

theorem rrc : Statement .rrc := fun _ => rfl

theorem ral : Statement .ral := fun _ => rfl

theorem rar : Statement .rar := fun _ => rfl

theorem cma : Statement .cma := fun _ => rfl

theorem cmc : Statement .cmc := fun _ => rfl

theorem stc : Statement .stc := fun _ => rfl

theorem jmp (a16 : Word) : Statement (.jmp a16) := fun _ => by
  simp only [opcode]
  rfl

theorem jnz (a16 : Word) : Statement (.jnz a16) := fun _ => by
  simp only [opcode]
  rfl

theorem jz (a16 : Word) : Statement (.jz a16) := fun _ => by
  simp only [opcode]
  rfl

theorem jnc (a16 : Word) : Statement (.jnc a16) := fun _ => by
  simp only [opcode]
  rfl

theorem jc (a16 : Word) : Statement (.jc a16) := fun _ => by
  simp only [opcode]
  rfl

theorem jpo (a16 : Word) : Statement (.jpo a16) := fun _ => by
  simp only [opcode]
  rfl

theorem jpe (a16 : Word) : Statement (.jpe a16) := fun _ => by
  simp only [opcode]
  rfl

theorem jp (a16 : Word) : Statement (.jp a16) := fun _ => by
  simp only [opcode]
  rfl

theorem jm (a16 : Word) : Statement (.jm a16) := fun _ => by
  simp only [opcode]
  rfl

theorem call (a16 : Word) : Statement (.call a16) := fun _ => by
  simp only [opcode]
  rfl

theorem cnz (a16 : Word) : Statement (.cnz a16) := fun _ => by
  simp only [opcode]
  rfl

theorem cz (a16 : Word) : Statement (.cz a16) := fun _ => by
  simp only [opcode]
  rfl

theorem cnc (a16 : Word) : Statement (.cnc a16) := fun _ => by
  simp only [opcode]
  rfl

theorem cc (a16 : Word) : Statement (.cc a16) := fun _ => by
  simp only [opcode]
  rfl

theorem cpo (a16 : Word) : Statement (.cpo a16) := fun _ => by
  simp only [opcode]
  rfl

theorem cpe (a16 : Word) : Statement (.cpe a16) := fun _ => by
  simp only [opcode]
  rfl

theorem cp (a16 : Word) : Statement (.cp a16) := fun _ => by
  simp only [opcode]
  rfl

theorem cm (a16 : Word) : Statement (.cm a16) := fun _ => by
  simp only [opcode]
  rfl

theorem ret : Statement .ret := fun _ => rfl

theorem rnz : Statement .rnz := fun _ => rfl

theorem rz : Statement .rz := fun _ => rfl

theorem rnc : Statement .rnc := fun _ => rfl

theorem rc : Statement .rc := fun _ => rfl

theorem rpo : Statement .rpo := fun _ => rfl

theorem rpe : Statement .rpe := fun _ => rfl

theorem rp : Statement .rp := fun _ => rfl

theorem rm : Statement .rm := fun _ => rfl

theorem rst (n : Fin 8) : Statement (.rst n) := by
  unfold Statement
  revert n
  decide

theorem pchl : Statement .pchl := fun _ => rfl

theorem pushRp (rp : RegPair) : Statement (.pushRp rp) := by
  cases rp <;> first | (intro h; cases h; done) | exact fun _ => rfl

theorem pushPsw : Statement .pushPsw := fun _ => rfl

theorem popRp (rp : RegPair) : Statement (.popRp rp) := by
  cases rp <;> first | (intro h; cases h; done) | exact fun _ => rfl

theorem popPsw : Statement .popPsw := fun _ => rfl

theorem xthl : Statement .xthl := fun _ => rfl

theorem sphl : Statement .sphl := fun _ => rfl

theorem ei : Statement .ei := fun _ => rfl

theorem di : Statement .di := fun _ => rfl

theorem hlt : Statement .hlt := fun _ => rfl

theorem nop : Statement .nop := fun _ => rfl

theorem inp (port : Byte) : Statement (.inp port) := fun _ => by
  simp only [opcode]
  rfl

theorem out (port : Byte) : Statement (.out port) := fun _ => by
  simp only [opcode]
  rfl

theorem unassignedNop (x : Fin 8) : Statement (.unassignedNop x) := by
  unfold Statement
  revert x
  decide

theorem unassignedJmp : Statement .unassignedJmp := fun _ => rfl

theorem unassignedRet : Statement .unassignedRet := fun _ => rfl

theorem unassignedCall (x : Fin 4) : Statement (.unassignedCall x) := by
  unfold Statement
  revert x
  decide

end Sys2Proof.Laws.EncodeLength
end

