-- ==== Sys2Proof/Laws/Shapes.lean ====
section
/-! SUPPORT. One lemma per shared operation of the meanings: what an instruction whose meaning is that operation does,
everything it leaves unchanged included. -/

namespace Sys2Proof.Machine

theorem keepsRegsBut_setReg (s : State) (r : Reg) (v : Byte) : KeepsRegsBut [r] s (s.setReg r v) := by
  intro q hq
  exact State.reg_setReg_ne _ _ (by simpa using hq)

theorem keepsMemBut_writeMem (s : State) (a : Word) (v : Byte) : KeepsMemBut [a] s (s.writeMem a v) := by
  intro b hb
  exact State.readMem_writeMem_ne _ _ (by simpa using hb)

theorem keepsMemBut_writeWord (s : State) (a v : Word) : KeepsMemBut [a, a + 1] s (s.writeWord a v) := by
  intro b hb
  simp only [List.mem_cons, List.not_mem_nil, or_false, not_or] at hb
  rw [State.readMem_writeWord, if_neg hb.2, if_neg hb.1]

theorem keepsMemBut_push16 (s : State) (v : Word) : KeepsMemBut [s.sp - 1, s.sp - 2] s (s.push16 v) := by
  intro b hb
  simp only [List.mem_cons, List.not_mem_nil, or_false, not_or] at hb
  rw [State.readMem_push16, if_neg hb.2, if_neg hb.1]

/-! What the stores leave in memory: every byte listed as stored is there afterwards. -/

@[simp] theorem holdsBytes_nil (t : State) : HoldsBytes [] t := by
  intro a v h
  cases h

@[simp] theorem holdsBytes_cons (a : Word) (v : Byte) (cells : List (Word × Byte)) (t : State) :
    HoldsBytes ((a, v) :: cells) t ↔ t.readMem a = v ∧ HoldsBytes cells t := by
  simp only [HoldsBytes, List.mem_cons, Prod.mk.injEq]
  refine ⟨fun h => ⟨h a v (.inl ⟨rfl, rfl⟩), fun b w hb => h b w (.inr hb)⟩, fun h b w hb => ?_⟩
  obtain ⟨rfl, rfl⟩ | hb := hb
  · exact h.1
  · exact h.2 b w hb

theorem holdsBytes_writeMem (s : State) (a : Word) (v : Byte) : HoldsBytes [(a, v)] (s.writeMem a v) := by
  simp

theorem holdsBytes_writeWord (s : State) (a v : Word) :
    HoldsBytes [(a, loByte v), (a + 1, hiByte v)] (s.writeWord a v) := by
  rw [holdsBytes_cons, holdsBytes_cons, State.readMem_writeWord, State.readMem_writeWord,
    if_neg (State.add_one_ne a).symm, if_pos rfl, if_pos rfl]
  exact ⟨rfl, rfl, holdsBytes_nil _⟩

theorem holdsBytes_push16 (s : State) (v : Word) :
    HoldsBytes [(s.sp - 1, hiByte v), (s.sp - 2, loByte v)] (s.push16 v) := by
  rw [holdsBytes_cons, holdsBytes_cons, State.readMem_push16, State.readMem_push16,
    if_neg (State.sub_one_ne_sub_two s.sp), if_pos rfl, if_pos rfl]
  exact ⟨rfl, rfl, holdsBytes_nil _⟩

theorem keepsRegsBut_setPair (s : State) (p : RegPair) (v : Word) : KeepsRegsBut (pairHalves p) s (s.setPair p v) := by
  intro r hr
  cases p <;> cases r <;> first | rfl | exact absurd (by decide) hr

theorem holdsPair_setPair (s : State) (p : RegPair) (v : Word) :
    HoldsPair (s.setPair p v) p (hiByte v) (loByte v) := by
  cases p <;> simp [HoldsPair, State.setPair]

theorem pair_of_holdsPair {s : State} {p : RegPair} {hi lo : Byte} (h : HoldsPair s p hi lo) :
    s.pair p = mkWord hi lo := by
  cases p with
  | b => obtain ⟨rfl, rfl⟩ := h; rfl
  | d => obtain ⟨rfl, rfl⟩ := h; rfl
  | h => obtain ⟨rfl, rfl⟩ := h; rfl
  | sp => exact h

/-- An unassigned byte in fault mode is the fault entry (R311, R313). -/
theorem unassigned_faulting {s : State} (h : s.config.undocMode = .faulting) (op : Byte) (alt : State) :
    s.unassigned op alt = s.raiseUnknown op := by
  simp [State.unassigned, h]

/-- An unassigned byte in alias mode is its alias (R95). -/
theorem unassigned_aliased {s : State} (h : s.config.undocMode = .aliased) (op : Byte) (alt : State) :
    s.unassigned op alt = alt := by
  simp [State.unassigned, h]

/-- An instruction whose meaning is `accumulate`. -/
theorem accumulates_of {i : Instr} {s : State} {x : Alu8} {length : Word} {allowed : Byte → Bool → Bool → Prop}
    (h : exec i s = .next (s.accumulate x length)) (hx : allowed x.res x.cy x.ac) :
    Accumulates i s length allowed :=
  ⟨_, h, hx, flagsOfResult_alu8 x, rfl, keepsRegsBut_setReg s .a x.res, rfl, fun _ => rfl, ⟨rfl, rfl, rfl, rfl, rfl, rfl⟩⟩

/-! What a conditional transfer leaves, taken or not. -/

@[simp] theorem State.jumpIf_regs (s : State) (cond : Cond) (a16 : Word) : (s.jumpIf cond a16).regs = s.regs := by
  simp only [State.jumpIf]
  split <;> rfl
@[simp] theorem State.jumpIf_sp (s : State) (cond : Cond) (a16 : Word) : (s.jumpIf cond a16).sp = s.sp := by
  simp only [State.jumpIf]
  split <;> rfl
@[simp] theorem State.jumpIf_flags (s : State) (cond : Cond) (a16 : Word) : (s.jumpIf cond a16).flags = s.flags := by
  simp only [State.jumpIf]
  split <;> rfl
@[simp] theorem State.jumpIf_ie (s : State) (cond : Cond) (a16 : Word) : (s.jumpIf cond a16).ie = s.ie := by
  simp only [State.jumpIf]
  split <;> rfl
@[simp] theorem State.jumpIf_mem (s : State) (cond : Cond) (a16 : Word) : (s.jumpIf cond a16).mem = s.mem := by
  simp only [State.jumpIf]
  split <;> rfl
@[simp] theorem State.jumpIf_run (s : State) (cond : Cond) (a16 : Word) : (s.jumpIf cond a16).run = s.run := by
  simp only [State.jumpIf]
  split <;> rfl
@[simp] theorem State.jumpIf_result (s : State) (cond : Cond) (a16 : Word) : (s.jumpIf cond a16).result = s.result := by
  simp only [State.jumpIf]
  split <;> rfl
@[simp] theorem State.jumpIf_ioOut (s : State) (cond : Cond) (a16 : Word) : (s.jumpIf cond a16).ioOut = s.ioOut := by
  simp only [State.jumpIf]
  split <;> rfl
@[simp] theorem State.jumpIf_inCount (s : State) (cond : Cond) (a16 : Word) : (s.jumpIf cond a16).inCount = s.inCount := by
  simp only [State.jumpIf]
  split <;> rfl
@[simp] theorem State.jumpIf_config (s : State) (cond : Cond) (a16 : Word) : (s.jumpIf cond a16).config = s.config := by
  simp only [State.jumpIf]
  split <;> rfl

@[simp] theorem State.callIf_regs (s : State) (cond : Cond) (a16 : Word) : (s.callIf cond a16).regs = s.regs := by
  simp only [State.callIf]
  split <;> rfl
@[simp] theorem State.callIf_flags (s : State) (cond : Cond) (a16 : Word) : (s.callIf cond a16).flags = s.flags := by
  simp only [State.callIf]
  split <;> rfl
@[simp] theorem State.callIf_ie (s : State) (cond : Cond) (a16 : Word) : (s.callIf cond a16).ie = s.ie := by
  simp only [State.callIf]
  split <;> rfl
@[simp] theorem State.callIf_run (s : State) (cond : Cond) (a16 : Word) : (s.callIf cond a16).run = s.run := by
  simp only [State.callIf]
  split <;> rfl
@[simp] theorem State.callIf_result (s : State) (cond : Cond) (a16 : Word) : (s.callIf cond a16).result = s.result := by
  simp only [State.callIf]
  split <;> rfl
@[simp] theorem State.callIf_ioOut (s : State) (cond : Cond) (a16 : Word) : (s.callIf cond a16).ioOut = s.ioOut := by
  simp only [State.callIf]
  split <;> rfl
@[simp] theorem State.callIf_inCount (s : State) (cond : Cond) (a16 : Word) : (s.callIf cond a16).inCount = s.inCount := by
  simp only [State.callIf]
  split <;> rfl
@[simp] theorem State.callIf_config (s : State) (cond : Cond) (a16 : Word) : (s.callIf cond a16).config = s.config := by
  simp only [State.callIf]
  split <;> rfl

@[simp] theorem State.returnIf_regs (s : State) (cond : Cond) : (s.returnIf cond).regs = s.regs := by
  simp only [State.returnIf]
  split <;> rfl
@[simp] theorem State.returnIf_flags (s : State) (cond : Cond) : (s.returnIf cond).flags = s.flags := by
  simp only [State.returnIf]
  split <;> rfl
@[simp] theorem State.returnIf_ie (s : State) (cond : Cond) : (s.returnIf cond).ie = s.ie := by
  simp only [State.returnIf]
  split <;> rfl
@[simp] theorem State.returnIf_mem (s : State) (cond : Cond) : (s.returnIf cond).mem = s.mem := by
  simp only [State.returnIf]
  split <;> rfl
@[simp] theorem State.returnIf_run (s : State) (cond : Cond) : (s.returnIf cond).run = s.run := by
  simp only [State.returnIf]
  split <;> rfl
@[simp] theorem State.returnIf_result (s : State) (cond : Cond) : (s.returnIf cond).result = s.result := by
  simp only [State.returnIf]
  split <;> rfl
@[simp] theorem State.returnIf_ioOut (s : State) (cond : Cond) : (s.returnIf cond).ioOut = s.ioOut := by
  simp only [State.returnIf]
  split <;> rfl
@[simp] theorem State.returnIf_inCount (s : State) (cond : Cond) : (s.returnIf cond).inCount = s.inCount := by
  simp only [State.returnIf]
  split <;> rfl
@[simp] theorem State.returnIf_config (s : State) (cond : Cond) : (s.returnIf cond).config = s.config := by
  simp only [State.returnIf]
  split <;> rfl

/-- An instruction whose meaning is a conditional jump. -/
theorem jumps_of {i : Instr} {s : State} {cond : Cond} {a16 : Word} (h : exec i s = .next (s.jumpIf cond a16)) :
    Jumps i s (s.flags.holds cond) a16 := by
  cases hc : s.flags.holds cond <;> simp only [State.jumpIf, hc] at h
  · exact ⟨_, h, nofun, fun _ => rfl, rfl, fun _ _ => rfl, rfl, fun _ => rfl, ⟨rfl, rfl, rfl, rfl, rfl, rfl⟩⟩
  · exact ⟨_, h, fun _ => rfl, nofun, rfl, fun _ _ => rfl, rfl, fun _ => rfl, ⟨rfl, rfl, rfl, rfl, rfl, rfl⟩⟩

/-- An instruction whose meaning is a call. -/
theorem calls_of {i : Instr} {s : State} {length target : Word} (h : exec i s = .next (s.callFrom length target)) :
    Calls i s length true target := by
  refine ⟨_, h, fun _ => ⟨rfl, rfl, ?_, keepsMemBut_push16 s (s.pc + length)⟩, nofun, fun _ _ => rfl, rfl,
    ⟨rfl, rfl, rfl, rfl, rfl, rfl⟩⟩
  show mkWord ((s.push16 (s.pc + length)).readMem (s.sp - 1)) ((s.push16 (s.pc + length)).readMem (s.sp - 2)) = _
  rw [State.readMem_push16, State.readMem_push16, if_neg (State.sub_one_ne_sub_two s.sp), if_pos rfl, if_pos rfl,
    mkWord_hiByte_loByte]

/-- An instruction whose meaning is a conditional call. -/
theorem calls_of_callIf {i : Instr} {s : State} {cond : Cond} {a16 : Word} (h : exec i s = .next (s.callIf cond a16)) :
    Calls i s 3 (s.flags.holds cond) a16 := by
  cases hc : s.flags.holds cond <;> simp only [State.callIf, hc] at h
  · exact ⟨_, h, nofun, fun _ => ⟨rfl, rfl, fun _ => rfl⟩, fun _ _ => rfl, rfl, ⟨rfl, rfl, rfl, rfl, rfl, rfl⟩⟩
  · exact calls_of h

/-- An instruction whose meaning is a return. -/
theorem returns_of {i : Instr} {s : State} (h : exec i s = .next s.popPc) : Returns i s true :=
  ⟨_, h, fun _ => ⟨rfl, rfl⟩, nofun, fun _ _ => rfl, rfl, fun _ => rfl, ⟨rfl, rfl, rfl, rfl, rfl, rfl⟩⟩

/-- An instruction whose meaning is a conditional return. -/
theorem returns_of_returnIf {i : Instr} {s : State} {cond : Cond} (h : exec i s = .next (s.returnIf cond)) :
    Returns i s (s.flags.holds cond) := by
  cases hc : s.flags.holds cond <;> simp only [State.returnIf, hc] at h
  · exact ⟨_, h, nofun, fun _ => ⟨rfl, rfl⟩, fun _ _ => rfl, rfl, fun _ => rfl, ⟨rfl, rfl, rfl, rfl, rfl, rfl⟩⟩
  · exact returns_of h

/-- An instruction whose meaning is a push. -/
theorem pushes_of {i : Instr} {s : State} {hi lo : Byte} (h : exec i s = .next ((s.push16 (mkWord hi lo)).advance 1)) :
    Pushes i s hi lo := by
  refine ⟨_, h, ⟨?_, ?_, rfl, keepsMemBut_push16 s _, fun _ _ => rfl⟩, rfl, rfl, ⟨rfl, rfl, rfl, rfl, rfl, rfl⟩⟩
  · show (s.push16 (mkWord hi lo)).readMem (s.sp - 1) = hi
    rw [State.readMem_push16, if_neg (State.sub_one_ne_sub_two s.sp), if_pos rfl, hiByte_mkWord]
  · show (s.push16 (mkWord hi lo)).readMem (s.sp - 2) = lo
    rw [State.readMem_push16, if_pos rfl, loByte_mkWord]

end Sys2Proof.Machine
end

