-- ==== Sys2Proof/Laws/Step.lean ====
section
/-! SUPPORT. What a step can do, said once: the four ways a step of a running machine ends. -/

namespace Sys2Proof.Machine

theorem isHlt_iff {i : Instr} : i.isHlt = true ↔ i = .hlt := by
  cases i <;> simp [Instr.isHlt]

/-- What a meaning does to the run state and the recorded result. -/
theorem exec_run (i : Instr) (s : State) :
    ∃ t, exec i s = .next t ∧
      (i = .hlt → t = (s.advance 1).stop .halted) ∧
      (i ≠ .hlt → i.unassignedByte = none ∨ s.config.undocMode = .aliased → t.run = s.run ∧ t.result = s.result) ∧
      (∀ op, i.unassignedByte = some op → s.config.undocMode = .faulting → t = s.raiseUnknown op) := by
  have alt : ∀ (i : Instr) (op : Byte) (u : State), exec i s = .next (s.unassigned op u) → i ≠ .hlt →
      i.unassignedByte = some op → u.run = s.run → u.result = s.result →
      ∃ t, exec i s = .next t ∧
        (i = .hlt → t = (s.advance 1).stop .halted) ∧
        (i ≠ .hlt → i.unassignedByte = none ∨ s.config.undocMode = .aliased → t.run = s.run ∧ t.result = s.result) ∧
        (∀ op, i.unassignedByte = some op → s.config.undocMode = .faulting → t = s.raiseUnknown op) := by
    intro i op u h hne hb hr hs
    refine ⟨_, h, fun e => absurd e hne, fun _ ha => ?_, fun op' hb' hf => ?_⟩
    · rw [hb] at ha
      rw [unassigned_aliased (ha.resolve_left nofun)]
      exact ⟨hr, hs⟩
    · rw [hb] at hb'
      rw [unassigned_faulting hf, Option.some.inj hb']
  cases i
  case hlt => exact ⟨_, rfl, fun _ => rfl, fun h => absurd rfl h, nofun⟩
  case unassignedNop x => exact alt _ _ (s.advance 1) rfl nofun rfl rfl rfl
  case unassignedJmp => exact alt _ _ (s.setPc s.operand16) rfl nofun rfl rfl rfl
  case unassignedRet => exact alt _ _ s.popPc rfl nofun rfl rfl rfl
  case unassignedCall x => exact alt _ _ (s.callFrom 3 s.operand16) rfl nofun rfl rfl rfl
  case lxi p v => cases p <;> exact ⟨_, rfl, nofun, fun _ _ => ⟨rfl, rfl⟩, nofun⟩
  case inx p => cases p <;> exact ⟨_, rfl, nofun, fun _ _ => ⟨rfl, rfl⟩, nofun⟩
  case dcx p => cases p <;> exact ⟨_, rfl, nofun, fun _ _ => ⟨rfl, rfl⟩, nofun⟩
  case popRp p => cases p <;> exact ⟨_, rfl, nofun, fun _ _ => ⟨rfl, rfl⟩, nofun⟩
  all_goals
    refine ⟨_, rfl, nofun, fun _ _ => ?_, nofun⟩
    first
    | exact ⟨rfl, rfl⟩
    | simp

/-- The ways a step of a running machine ends: an unimplemented-opcode fault, an unknown-opcode fault, HLT, or another
instruction's meaning, after which the machine runs on. -/
theorem step_cases {s : State} (hr : s.run = .running) :
    (s.readMem s.pc ∈ s.config.unimpl ∧ step s = .next (s.raiseUnimplemented (s.readMem s.pc))) ∨
    (s.readMem s.pc ∉ s.config.unimpl ∧ isUnassigned (s.readMem s.pc) = true ∧ s.config.undocMode = .faulting ∧
      step s = .next (s.raiseUnknown (s.readMem s.pc))) ∨
    (¬ s.faultsAtDecode ∧ s.readMem s.pc = 0x76 ∧ s.fetchInstr = .hlt ∧ step s = exec s.fetchInstr s ∧
      step s = .next ((s.advance 1).stop .halted)) ∨
    (¬ s.faultsAtDecode ∧ s.readMem s.pc ≠ 0x76 ∧ s.fetchInstr ≠ .hlt ∧ step s = exec s.fetchInstr s ∧
      ∃ t, step s = .next t ∧ t.run = .running ∧ t.result = s.result) := by
  by_cases hu : s.readMem s.pc ∈ s.config.unimpl
  · have hf : s.fetchesUnimplemented = true := by simpa [State.fetchesUnimplemented, State.fetchOpcode] using hu
    refine .inl ⟨hu, ?_⟩
    simp only [step, hr, hf]
    rfl
  · right
    have hf : s.fetchesUnimplemented = false := by
      simpa [State.fetchesUnimplemented, State.fetchOpcode] using hu
    have hs : step s = exec s.fetchInstr s := by simp only [step, hr, hf]
    obtain ⟨t, ht, h1, h2, h3⟩ := exec_run s.fetchInstr s
    have hun : s.fetchInstr.unassignedByte = _ := decode_unassignedByte (s.readMem s.pc) s.operand2 s.operand3
    have hh : s.fetchInstr.isHlt = _ := decode_isHlt (s.readMem s.pc) s.operand2 s.operand3
    by_cases ha : isUnassigned (s.readMem s.pc) = true ∧ s.config.undocMode = .faulting
    · rw [if_pos ha.1] at hun
      exact .inl ⟨hu, ha.1, ha.2, by rw [hs, ht, h3 _ hun ha.2]⟩
    · right
      have hnf : ¬ s.faultsAtDecode := fun h => h.elim hu ha
      by_cases h76 : s.readMem s.pc = 0x76
      · have hi : s.fetchInstr = .hlt := isHlt_iff.mp (by rw [hh, h76]; rfl)
        exact .inl ⟨hnf, h76, hi, hs, by rw [hs, ht, h1 hi]⟩
      · have hne : s.fetchInstr ≠ .hlt := fun e => h76 (by
          rw [isHlt_iff.mpr e] at hh
          simpa using hh.symm)
        refine .inr ⟨hnf, h76, hne, hs, t, by rw [hs, ht], ?_⟩
        rw [← hr]
        apply h2 hne
        cases hm : s.config.undocMode
        · left
          rw [hun, if_neg fun h => ha ⟨h, hm⟩]
        · exact .inr rfl

end Sys2Proof.Machine
end

