-- ==== Sys2Proof/Tests/Slice0.lean ====
section
/-! SUPPORT. Tests. Expected values come from the spec: decoded words from the bit patterns of 30_encoding.md R90, single
steps from the vectors of 95_test_vectors.md (a test's name carries the vector's id), and witnesses that the hypotheses
of the obligations can be met. -/

namespace Sys2Proof.Tests

open Sys2Proof.Machine

/-! ## WellFormed refuses ill-formed terms -/

theorem test_wf_refuses_ldax_h : (Instr.ldax .h).wellFormed = false := by decide
theorem test_wf_refuses_ldax_sp : (Instr.ldax .sp).wellFormed = false := by decide
theorem test_wf_refuses_stax_h : (Instr.stax .h).wellFormed = false := by decide
theorem test_wf_refuses_stax_sp : (Instr.stax .sp).wellFormed = false := by decide
theorem test_wf_refuses_push_sp : (Instr.pushRp .sp).wellFormed = false := by decide
theorem test_wf_refuses_pop_sp : (Instr.popRp .sp).wellFormed = false := by decide
theorem test_wf_refuses_unassigned_nop_0 : (Instr.unassignedNop 0).wellFormed = false := by decide
theorem test_wf_refuses_unassigned_call_0 : (Instr.unassignedCall 0).wellFormed = false := by decide
theorem test_wf_accepts : (Instr.ldax .d).wellFormed = true ∧ (Instr.pushRp .h).wellFormed = true ∧
    (Instr.unassignedNop 7).wellFormed = true ∧ (Instr.unassignedCall 3).wellFormed = true := by
  decide

/-! ## Decoding: each constructor's word, written out from its pattern in R90 -/

theorem test_decode_stack_i_o_control :
    decode 0b00000000 0 0 = .nop ∧
    decode 0b01110110 0 0 = .hlt ∧
    decode 0b11000001 0 0 = .popRp .b ∧
    decode 0b11110001 0 0 = .popPsw ∧
    decode 0b11010101 0 0 = .pushRp .d ∧
    decode 0b11110101 0 0 = .pushPsw ∧
    decode 0b11010011 0x34 0 = .out 0x34 ∧
    decode 0b11011011 0x34 0 = .inp 0x34 ∧
    decode 0b11100011 0 0 = .xthl ∧
    decode 0b11110011 0 0 = .di ∧
    decode 0b11111001 0 0 = .sphl ∧
    decode 0b11111011 0 0 = .ei := by
  decide

theorem test_decode_data_transfer :
    decode 0b00010001 0x34 0x12 = .lxi .d 0x1234 ∧
    decode 0b00000010 0 0 = .stax .b ∧
    decode 0b00011010 0 0 = .ldax .d ∧
    decode 0b00100010 0x34 0x12 = .shld 0x1234 ∧
    decode 0b00101010 0x34 0x12 = .lhld 0x1234 ∧
    decode 0b00110010 0x34 0x12 = .sta 0x1234 ∧
    decode 0b00111010 0x34 0x12 = .lda 0x1234 ∧
    decode 0b00011110 0x34 0 = .mviR .e 0x34 ∧
    decode 0b00110110 0x34 0 = .mviM 0x34 ∧
    decode 0b01100011 0 0 = .movRR .h .e ∧
    decode 0b01000110 0 0 = .movRM .b ∧
    decode 0b01110111 0 0 = .movMR .a ∧
    decode 0b11101011 0 0 = .xchg := by
  decide

theorem test_decode_arithmetic_1 :
    decode 0b00000011 0 0 = .inx .b ∧
    decode 0b00011011 0 0 = .dcx .d ∧
    decode 0b00101001 0 0 = .dad .h ∧
    decode 0b00101100 0 0 = .inrR .l ∧
    decode 0b00110100 0 0 = .inrM ∧
    decode 0b00100101 0 0 = .dcrR .h ∧
    decode 0b00110101 0 0 = .dcrM ∧
    decode 0b00100111 0 0 = .daa ∧
    decode 0b10000100 0 0 = .addR .h ∧
    decode 0b10000110 0 0 = .addM ∧
    decode 0b10001000 0 0 = .adcR .b ∧
    decode 0b10001110 0 0 = .adcM ∧
    decode 0b10010011 0 0 = .subR .e ∧
    decode 0b10010110 0 0 = .subM ∧
    decode 0b10011111 0 0 = .sbbR .a ∧
    decode 0b10011110 0 0 = .sbbM := by
  decide

theorem test_decode_arithmetic_2 :
    decode 0b11000110 0x34 0 = .adi 0x34 ∧
    decode 0b11001110 0x34 0 = .aci 0x34 ∧
    decode 0b11010110 0x34 0 = .sui 0x34 ∧
    decode 0b11011110 0x34 0 = .sbi 0x34 := by
  decide

theorem test_decode_logical_1 :
    decode 0b00000111 0 0 = .rlc ∧
    decode 0b00001111 0 0 = .rrc ∧
    decode 0b00010111 0 0 = .ral ∧
    decode 0b00011111 0 0 = .rar ∧
    decode 0b00101111 0 0 = .cma ∧
    decode 0b00110111 0 0 = .stc ∧
    decode 0b00111111 0 0 = .cmc ∧
    decode 0b10100010 0 0 = .anaR .d ∧
    decode 0b10100110 0 0 = .anaM ∧
    decode 0b10101101 0 0 = .xraR .l ∧
    decode 0b10101110 0 0 = .xraM ∧
    decode 0b10110001 0 0 = .oraR .c ∧
    decode 0b10110110 0 0 = .oraM ∧
    decode 0b10111100 0 0 = .cmpR .h ∧
    decode 0b10111110 0 0 = .cmpM ∧
    decode 0b11100110 0x34 0 = .ani 0x34 := by
  decide

theorem test_decode_logical_2 :
    decode 0b11101110 0x34 0 = .xri 0x34 ∧
    decode 0b11110110 0x34 0 = .ori 0x34 ∧
    decode 0b11111110 0x34 0 = .cpi 0x34 := by
  decide

theorem test_decode_unassigned :
    decode 0b00110000 0 0 = .unassignedNop 6 ∧
    decode 0b11001011 0 0 = .unassignedJmp ∧
    decode 0b11011001 0 0 = .unassignedRet ∧
    decode 0b11101101 0 0 = .unassignedCall 2 := by
  decide

theorem test_decode_branch_1 :
    decode 0b11000000 0 0 = .rnz ∧
    decode 0b11001000 0 0 = .rz ∧
    decode 0b11010000 0 0 = .rnc ∧
    decode 0b11011000 0 0 = .rc ∧
    decode 0b11100000 0 0 = .rpo ∧
    decode 0b11101000 0 0 = .rpe ∧
    decode 0b11110000 0 0 = .rp ∧
    decode 0b11111000 0 0 = .rm ∧
    decode 0b11000010 0x34 0x12 = .jnz 0x1234 ∧
    decode 0b11001010 0x34 0x12 = .jz 0x1234 ∧
    decode 0b11010010 0x34 0x12 = .jnc 0x1234 ∧
    decode 0b11011010 0x34 0x12 = .jc 0x1234 ∧
    decode 0b11100010 0x34 0x12 = .jpo 0x1234 ∧
    decode 0b11101010 0x34 0x12 = .jpe 0x1234 ∧
    decode 0b11110010 0x34 0x12 = .jp 0x1234 ∧
    decode 0b11111010 0x34 0x12 = .jm 0x1234 := by
  decide

theorem test_decode_branch_2 :
    decode 0b11000011 0x34 0x12 = .jmp 0x1234 ∧
    decode 0b11000100 0x34 0x12 = .cnz 0x1234 ∧
    decode 0b11001100 0x34 0x12 = .cz 0x1234 ∧
    decode 0b11010100 0x34 0x12 = .cnc 0x1234 ∧
    decode 0b11011100 0x34 0x12 = .cc 0x1234 ∧
    decode 0b11100100 0x34 0x12 = .cpo 0x1234 ∧
    decode 0b11101100 0x34 0x12 = .cpe 0x1234 ∧
    decode 0b11110100 0x34 0x12 = .cp 0x1234 ∧
    decode 0b11111100 0x34 0x12 = .cm 0x1234 ∧
    decode 0b11101111 0 0 = .rst 5 ∧
    decode 0b11001001 0 0 = .ret ∧
    decode 0b11001101 0x34 0x12 = .call 0x1234 ∧
    decode 0b11101001 0 0 = .pchl := by
  decide

/-- A list of bytes that ends inside an instruction is refused by name. -/
theorem test_decode_rejects : decodeBytes [] = .error .noBytes ∧ decodeBytes [0x3E] = .error (.truncated 0x3E) ∧
    decodeBytes [0xC3, 0x10] = .error (.truncated 0xC3) := by
  refine ⟨rfl, rfl, rfl⟩

/-- The length of an opcode byte in both modes (R88). -/
theorem test_opcode_length : opcodeLength .faulting 0xCB = 1 ∧ opcodeLength .aliased 0xCB = 3 ∧
    opcodeLength .aliased 0xFD = 3 ∧ opcodeLength .aliased 0xD9 = 1 ∧ opcodeLength .aliased 0x08 = 1 ∧
    opcodeLength .faulting 0xDB = 2 ∧ opcodeLength .faulting 0x31 = 3 := by
  decide

/-- Table words: the operand bits the table does not give are zero. -/
theorem test_decode_table_word : decodeTableWord 8 0xC3 = some (.jmp 0) ∧
    decodeTableWord 16 0x343E = some (.mviR .a 0x34) ∧
    decodeTableWord 24 0x123421 = some (.lxi .h 0x1234) ∧ decodeTableWord 8 0xFD = some (.unassignedCall 3) := by
  decide

/-! ## One step -/

/-- PC at an address that holds the given bytes, everything else as after reset. -/
def start (pc : Word) (bytes : List Byte) : State := ({ State.reset with pc := pc } : State).writeBytes pc bytes

/-- The same machine with `UNDOC_MODE = alias`. -/
def aliasMode (s : State) : State := { s with config := { s.config with undocMode := .aliased } }

/-- The step from the state answers a next state that passes the check. -/
def after (s : State) (check : State → Bool) : Bool :=
  match step s with
  | .next t => check t
  | .fault _ => false
  | .refused _ => false

theorem test_SK20_nop :
    after (start 0x0100 [0x00] |>.setFlags ⟨true, true, true, true, true⟩) fun t =>
      t.pc == 0x0101 && t.flags == ⟨true, true, true, true, true⟩ := by
  decide

theorem test_DT25_lxi :
    after (start 0xFFFE [0x11, 0x44, 0x55]) fun t =>
      t.pc == 0x0001 && t.flags == ⟨false, false, false, false, false⟩ && t.reg .d == 0x55 && t.reg .e == 0x44 := by
  decide

theorem test_DT21_stax :
    after (start 0x0100 [0x02] |>.setReg .b 0x3F |>.setReg .c 0x16 |>.setReg .a 0x55) fun t =>
      t.pc == 0x0101 && t.flags == ⟨false, false, false, false, false⟩ && t.readMem 0x3F16 == 0x55 := by
  decide

theorem test_DT19_ldax :
    after (start 0x0100 [0x1A] |>.setReg .d 0x93 |>.setReg .e 0x8B |>.writeMem 0x938B 0x42) fun t =>
      t.pc == 0x0101 && t.flags == ⟨false, false, false, false, false⟩ && t.reg .a == 0x42 := by
  decide

theorem test_DT17_shld :
    after (start 0x0200 [0x22, 0x0A, 0x01] |>.setReg .h 0xAE |>.setReg .l 0x29) fun t =>
      t.pc == 0x0203 && t.flags == ⟨false, false, false, false, false⟩ && t.readMem 0x010A == 0x29 &&
      t.readMem 0x010B == 0xAE := by
  decide

theorem test_DT15_lhld :
    after (start 0x0100 [0x2A, 0x00, 0x20] |>.writeMem 0x2000 0xCD |>.writeMem 0x2001 0xAB) fun t =>
      t.pc == 0x0103 && t.flags == ⟨false, false, false, false, false⟩ && t.reg .h == 0xAB && t.reg .l == 0xCD := by
  decide

theorem test_DT16_lhld :
    after (start 0x0100 [0x2A, 0xFF, 0xFF] |>.writeMem 0xFFFF 0x11 |>.writeMem 0x0000 0x22) fun t =>
      t.pc == 0x0103 && t.flags == ⟨false, false, false, false, false⟩ && t.reg .h == 0x22 && t.reg .l == 0x11 := by
  decide

theorem test_DT26_sta :
    after (start 0x0100 [0x32, 0x01, 0x01] |>.setReg .a 0xEE) fun t =>
      t.pc == 0x0103 && t.flags == ⟨false, false, false, false, false⟩ && t.readMem 0x0101 == 0xEE := by
  decide

theorem test_DT13_lda :
    after (start 0x0100 [0x3A, 0x50, 0x20] |>.writeMem 0x2050 0x77) fun t =>
      t.pc == 0x0103 && t.flags == ⟨false, false, false, false, false⟩ && t.reg .a == 0x77 := by
  decide

theorem test_AR40_inx :
    after (start 0x0100 [0x23] |>.setReg .h 0xFF |>.setReg .l 0xFF) fun t =>
      t.pc == 0x0101 && t.flags == ⟨false, false, false, false, false⟩ && t.reg .h == 0x00 && t.reg .l == 0x00 := by
  decide

theorem test_AR39_inx :
    after (start 0x0100 [0x33] |>.setSp 0xFFFF) fun t =>
      t.pc == 0x0101 && t.flags == ⟨false, false, false, false, false⟩ && t.sp == 0x0000 := by
  decide

theorem test_AR42_dcx :
    after (start 0x0100 [0x0B] |>.setReg .b 0x00 |>.setReg .c 0x00) fun t =>
      t.pc == 0x0101 && t.flags == ⟨false, false, false, false, false⟩ && t.reg .b == 0xFF && t.reg .c == 0xFF := by
  decide

theorem test_AR44_dad :
    after (start 0x0100 [0x09] |>.setReg .b 0x33 |>.setReg .c 0x9F |>.setReg .h 0xA1 |>.setReg .l 0x7B) fun t =>
      t.pc == 0x0101 && t.flags == ⟨false, false, false, false, false⟩ && t.reg .h == 0xD5 && t.reg .l == 0x1A := by
  decide

theorem test_AR32_inrR :
    after (start 0x0100 [0x04] |>.setReg .b 0x7F) fun t =>
      t.pc == 0x0101 && t.flags == ⟨false, true, false, false, true⟩ && t.reg .b == 0x80 := by
  decide

theorem test_AR31_inrR :
    after (start 0x0002 [0x3C] |>.setReg .a 0xFF |>.setFlags ⟨false, false, false, true, false⟩) fun t =>
      t.pc == 0x0003 && t.flags == ⟨true, false, true, true, true⟩ && t.reg .a == 0x00 := by
  decide

theorem test_AR33_inrM :
    after (start 0x0100 [0x34] |>.setReg .h 0x20 |>.setReg .l 0x00 |>.writeMem 0x2000 0x99) fun t =>
      t.pc == 0x0101 && t.flags == ⟨false, true, true, false, false⟩ && t.readMem 0x2000 == 0x9A := by
  decide

theorem test_AR35_dcrR :
    after (start 0x0100 [0x05] |>.setReg .b 0x01) fun t =>
      t.pc == 0x0101 && t.flags == ⟨true, false, true, false, false⟩ && t.reg .b == 0x00 := by
  decide

theorem test_AR37_dcrM :
    after (start 0x0100 [0x35] |>.setReg .h 0x20 |>.setReg .l 0x00 |>.writeMem 0x2000 0x40) fun t =>
      t.pc == 0x0101 && t.flags == ⟨false, false, true, false, true⟩ && t.readMem 0x2000 == 0x3F := by
  decide

theorem test_DT24_mviR :
    after (start 0xFFFF [0x3E, 0x77]) fun t =>
      t.pc == 0x0001 && t.flags == ⟨false, false, false, false, false⟩ && t.reg .a == 0x77 := by
  decide

theorem test_DT9_mviM :
    after (start 0x0100 [0x36, 0xAB] |>.setReg .h 0x30 |>.setReg .l 0x00) fun t =>
      t.pc == 0x0102 && t.flags == ⟨false, false, false, false, false⟩ && t.readMem 0x3000 == 0xAB := by
  decide

theorem test_RT1_rlc :
    after (start 0x0100 [0x07] |>.setReg .a 0xF2) fun t =>
      t.pc == 0x0101 && t.flags == ⟨false, false, false, true, false⟩ && t.reg .a == 0xE5 := by
  decide

theorem test_RT3_rrc :
    after (start 0x0100 [0x0F] |>.setReg .a 0xF2 |>.setFlags ⟨false, false, false, true, false⟩) fun t =>
      t.pc == 0x0101 && t.flags == ⟨false, false, false, false, false⟩ && t.reg .a == 0x79 := by
  decide

theorem test_RT5_ral :
    after (start 0x0100 [0x17] |>.setReg .a 0xB5) fun t =>
      t.pc == 0x0101 && t.flags == ⟨false, false, false, true, false⟩ && t.reg .a == 0x6A := by
  decide

theorem test_RT7_rar :
    after (start 0x0100 [0x1F] |>.setReg .a 0x6A |>.setFlags ⟨false, false, false, true, false⟩) fun t =>
      t.pc == 0x0101 && t.flags == ⟨false, false, false, false, false⟩ && t.reg .a == 0xB5 := by
  decide

theorem test_AR55_daa :
    after (start 0x0100 [0x27] |>.setReg .a 0x99 |>.setFlags ⟨false, false, false, true, false⟩) fun t =>
      t.pc == 0x0101 && t.flags == ⟨false, true, true, true, false⟩ && t.reg .a == 0xF9 := by
  decide

theorem test_AR51_daa :
    after (start 0x0100 [0x27] |>.setReg .a 0x32 |>.setFlags ⟨false, false, false, true, true⟩) fun t =>
      t.pc == 0x0101 && t.flags == ⟨false, true, false, true, false⟩ && t.reg .a == 0x98 := by
  decide

theorem test_RT9_cma :
    after (start 0x0100 [0x2F] |>.setReg .a 0x51 |>.setFlags ⟨true, false, true, false, true⟩) fun t =>
      t.pc == 0x0101 && t.flags == ⟨true, false, true, false, true⟩ && t.reg .a == 0xAE := by
  decide

theorem test_RT13_stc :
    after (start 0x0100 [0x37] |>.setFlags ⟨true, false, false, true, false⟩) fun t =>
      t.pc == 0x0101 && t.flags == ⟨true, false, false, true, false⟩ := by
  decide

theorem test_RT11_cmc :
    after (start 0x0100 [0x3F]) fun t =>
      t.pc == 0x0101 && t.flags == ⟨false, false, false, true, false⟩ := by
  decide

theorem test_UD38_unassignedNop :
    after (start 0x0005 [0x38]) fun t =>
      t.pc == 0x0005 && t.flags == ⟨false, false, false, false, false⟩ && t.run == .halted &&
      t.result == .unknownOpcode 0x38 0x0005 := by
  decide

theorem test_UA38_unassignedNop :
    after (aliasMode (start 0x0005 [0x38])) fun t =>
      t.pc == 0x0006 && t.flags == ⟨false, false, false, false, false⟩ := by
  decide

theorem test_SK18_hlt :
    after (start 0x0005 [0x76] |>.setReg .a 0x08) fun t =>
      t.pc == 0x0006 && t.flags == ⟨false, false, false, false, false⟩ && t.run == .halted &&
      t.result == .halted := by
  decide

theorem test_DT1_movRR :
    after (start 0x0100 [0x78] |>.setReg .b 0x12) fun t =>
      t.pc == 0x0101 && t.flags == ⟨false, false, false, false, false⟩ && t.reg .a == 0x12 := by
  decide

theorem test_DT3_movRM :
    after (start 0x0100 [0x7E] |>.setReg .h 0x20 |>.setReg .l 0x00 |>.writeMem 0x2000 0x5A) fun t =>
      t.pc == 0x0101 && t.flags == ⟨false, false, false, false, false⟩ && t.reg .a == 0x5A := by
  decide

theorem test_DT4_movMR :
    after (start 0x0100 [0x77] |>.setReg .h 0x20 |>.setReg .l 0x01 |>.setReg .a 0x99) fun t =>
      t.pc == 0x0101 && t.flags == ⟨false, false, false, false, false⟩ && t.readMem 0x2001 == 0x99 := by
  decide

theorem test_AR3_addR :
    after (start 0x0100 [0x87] |>.setReg .a 0x80) fun t =>
      t.pc == 0x0101 && t.flags == ⟨true, false, true, true, false⟩ && t.reg .a == 0x00 := by
  decide

theorem test_AR6_addM :
    after (start 0x0100 [0x86] |>.setReg .a 0xF0 |>.setReg .h 0x20 |>.setReg .l 0x00
        |>.writeMem 0x2000 0x20) fun t =>
      t.pc == 0x0101 && t.flags == ⟨false, false, false, true, false⟩ && t.reg .a == 0x10 := by
  decide

theorem test_AR9_adcR :
    after (start 0x0100 [0x89] |>.setReg .a 0x42 |>.setReg .c 0x3D
        |>.setFlags ⟨false, false, false, true, false⟩) fun t =>
      t.pc == 0x0101 && t.flags == ⟨false, true, false, false, true⟩ && t.reg .a == 0x80 := by
  decide

theorem test_AR12_adcM :
    after (start 0x0100 [0x8E] |>.setReg .a 0x01 |>.setReg .h 0x20 |>.setReg .l 0x00
        |>.setFlags ⟨false, false, false, true, false⟩ |>.writeMem 0x2000 0xFE) fun t =>
      t.pc == 0x0101 && t.flags == ⟨true, false, true, true, true⟩ && t.reg .a == 0x00 := by
  decide

theorem test_AR15_subR :
    after (start 0x0100 [0x97] |>.setReg .a 0x3E) fun t =>
      t.pc == 0x0101 && t.flags == ⟨true, false, true, false, false⟩ && t.reg .a == 0x00 := by
  decide

theorem test_AR16_subR :
    after (start 0x0100 [0x90] |>.setReg .a 0x00 |>.setReg .b 0x01) fun t =>
      t.pc == 0x0101 && t.flags == ⟨false, true, true, true, true⟩ && t.reg .a == 0xFF := by
  decide

theorem test_AR17_subM :
    after (start 0x0100 [0x96] |>.setReg .a 0x10 |>.setReg .h 0x20 |>.setReg .l 0x00
        |>.writeMem 0x2000 0x01) fun t =>
      t.pc == 0x0101 && t.flags == ⟨false, false, true, false, true⟩ && t.reg .a == 0x0F := by
  decide

theorem test_AR23_sbbR :
    after (start 0x0100 [0x98] |>.setReg .a 0x12 |>.setReg .b 0xFF
        |>.setFlags ⟨false, false, false, true, false⟩) fun t =>
      t.pc == 0x0101 && t.flags == ⟨false, false, true, true, true⟩ := by
  decide

theorem test_AR24_sbbM :
    after (start 0x0100 [0x9E] |>.setReg .a 0x00 |>.setReg .h 0x20 |>.setReg .l 0x00
        |>.setFlags ⟨false, false, false, true, false⟩) fun t =>
      t.pc == 0x0101 && t.flags == ⟨false, true, true, true, true⟩ && t.reg .a == 0xFF := by
  decide

theorem test_LG1_anaR :
    after (start 0x0100 [0xA1] |>.setReg .a 0xFC |>.setReg .c 0x0F) fun t =>
      t.pc == 0x0101 && t.flags == ⟨false, false, true, false, true⟩ && t.reg .a == 0x0C := by
  decide

theorem test_LG3_anaM :
    after (start 0x0100 [0xA6] |>.setReg .a 0xF0 |>.setReg .h 0x20 |>.setReg .l 0x00
        |>.writeMem 0x2000 0x0F) fun t =>
      t.pc == 0x0101 && t.flags == ⟨true, false, true, false, true⟩ && t.reg .a == 0x00 := by
  decide

theorem test_LG6_xraR :
    after (start 0x0100 [0xA8] |>.setReg .a 0xFF |>.setReg .b 0x0F) fun t =>
      t.pc == 0x0101 && t.flags == ⟨false, true, true, false, false⟩ && t.reg .a == 0xF0 := by
  decide

theorem test_LG8_xraM :
    after (start 0x0100 [0xAE] |>.setReg .a 0x5C |>.setReg .h 0x20 |>.setReg .l 0x00
        |>.writeMem 0x2000 0x78) fun t =>
      t.pc == 0x0101 && t.flags == ⟨false, false, true, false, false⟩ && t.reg .a == 0x24 := by
  decide

theorem test_LG10_oraR :
    after (start 0x0100 [0xB1] |>.setReg .a 0x33 |>.setReg .c 0x0F) fun t =>
      t.pc == 0x0101 && t.flags == ⟨false, false, true, false, false⟩ && t.reg .a == 0x3F := by
  decide

theorem test_LG12_oraM :
    after (start 0x0100 [0xB6] |>.setReg .a 0x00 |>.setReg .h 0x20 |>.setReg .l 0x00) fun t =>
      t.pc == 0x0101 && t.flags == ⟨true, false, true, false, false⟩ := by
  decide

theorem test_LG15_cmpR :
    after (start 0x0100 [0xBB] |>.setReg .a 0x02 |>.setReg .e 0x05) fun t =>
      t.pc == 0x0101 && t.flags == ⟨false, true, false, true, true⟩ := by
  decide

theorem test_LG20_cmpR :
    after (start 0x0100 [0xB8] |>.setReg .a 0x05 |>.setReg .b 0x85) fun t =>
      t.pc == 0x0101 && t.flags == ⟨false, true, false, true, false⟩ := by
  decide

theorem test_LG17_cmpM :
    after (start 0x0100 [0xBE] |>.setReg .a 0x80 |>.setReg .h 0x20 |>.setReg .l 0x00
        |>.writeMem 0x2000 0x80) fun t =>
      t.pc == 0x0101 && t.flags == ⟨true, false, true, false, false⟩ := by
  decide

theorem test_RT22_rnz :
    after (start 0x0060 [0xC0] |>.setSp 0x23FE |>.writeMem 0x23FE 0x13) fun t =>
      t.pc == 0x0013 && t.flags == ⟨false, false, false, false, false⟩ && t.sp == 0x2400 := by
  decide

theorem test_RT23_rnz :
    after (start 0x0060 [0xC0] |>.setSp 0x23FE |>.setFlags ⟨true, false, false, false, false⟩
        |>.writeMem 0x23FE 0x13) fun t =>
      t.pc == 0x0061 && t.flags == ⟨true, false, false, false, false⟩ := by
  decide

theorem test_RT24_rz :
    after (start 0x0060 [0xC8] |>.setSp 0x23FE |>.setFlags ⟨true, false, false, false, false⟩
        |>.writeMem 0x23FE 0x13) fun t =>
      t.pc == 0x0013 && t.flags == ⟨true, false, false, false, false⟩ && t.sp == 0x2400 := by
  decide

theorem test_RT25_rz :
    after (start 0x0060 [0xC8] |>.setSp 0x23FE |>.writeMem 0x23FE 0x13) fun t =>
      t.pc == 0x0061 && t.flags == ⟨false, false, false, false, false⟩ := by
  decide

theorem test_RT26_rnc :
    after (start 0x0060 [0xD0] |>.setSp 0x23FE |>.writeMem 0x23FE 0x13) fun t =>
      t.pc == 0x0013 && t.flags == ⟨false, false, false, false, false⟩ && t.sp == 0x2400 := by
  decide

theorem test_RT27_rnc :
    after (start 0x0060 [0xD0] |>.setSp 0x23FE |>.setFlags ⟨false, false, false, true, false⟩
        |>.writeMem 0x23FE 0x13) fun t =>
      t.pc == 0x0061 && t.flags == ⟨false, false, false, true, false⟩ := by
  decide

theorem test_RT28_rc :
    after (start 0x0060 [0xD8] |>.setSp 0x23FE |>.setFlags ⟨false, false, false, true, false⟩
        |>.writeMem 0x23FE 0x13) fun t =>
      t.pc == 0x0013 && t.flags == ⟨false, false, false, true, false⟩ && t.sp == 0x2400 := by
  decide

theorem test_RT29_rc :
    after (start 0x0060 [0xD8] |>.setSp 0x23FE |>.writeMem 0x23FE 0x13) fun t =>
      t.pc == 0x0061 && t.flags == ⟨false, false, false, false, false⟩ := by
  decide

theorem test_RT30_rpo :
    after (start 0x0060 [0xE0] |>.setSp 0x23FE |>.writeMem 0x23FE 0x13) fun t =>
      t.pc == 0x0013 && t.flags == ⟨false, false, false, false, false⟩ && t.sp == 0x2400 := by
  decide

theorem test_RT31_rpo :
    after (start 0x0060 [0xE0] |>.setSp 0x23FE |>.setFlags ⟨false, false, true, false, false⟩
        |>.writeMem 0x23FE 0x13) fun t =>
      t.pc == 0x0061 && t.flags == ⟨false, false, true, false, false⟩ := by
  decide

theorem test_RT32_rpe :
    after (start 0x0060 [0xE8] |>.setSp 0x23FE |>.setFlags ⟨false, false, true, false, false⟩
        |>.writeMem 0x23FE 0x13) fun t =>
      t.pc == 0x0013 && t.flags == ⟨false, false, true, false, false⟩ && t.sp == 0x2400 := by
  decide

theorem test_RT33_rpe :
    after (start 0x0060 [0xE8] |>.setSp 0x23FE |>.writeMem 0x23FE 0x13) fun t =>
      t.pc == 0x0061 && t.flags == ⟨false, false, false, false, false⟩ := by
  decide

theorem test_RT34_rp :
    after (start 0x0060 [0xF0] |>.setSp 0x23FE |>.writeMem 0x23FE 0x13) fun t =>
      t.pc == 0x0013 && t.flags == ⟨false, false, false, false, false⟩ && t.sp == 0x2400 := by
  decide

theorem test_RT35_rp :
    after (start 0x0060 [0xF0] |>.setSp 0x23FE |>.setFlags ⟨false, true, false, false, false⟩
        |>.writeMem 0x23FE 0x13) fun t =>
      t.pc == 0x0061 && t.flags == ⟨false, true, false, false, false⟩ := by
  decide

theorem test_RT36_rm :
    after (start 0x0060 [0xF8] |>.setSp 0x23FE |>.setFlags ⟨false, true, false, false, false⟩
        |>.writeMem 0x23FE 0x13) fun t =>
      t.pc == 0x0013 && t.flags == ⟨false, true, false, false, false⟩ && t.sp == 0x2400 := by
  decide

theorem test_RT37_rm :
    after (start 0x0060 [0xF8] |>.setSp 0x23FE |>.writeMem 0x23FE 0x13) fun t =>
      t.pc == 0x0061 && t.flags == ⟨false, false, false, false, false⟩ := by
  decide

theorem test_SK7_popRp :
    after (start 0x0100 [0xE1] |>.setSp 0x1239 |>.writeMem 0x1239 0x3D |>.writeMem 0x123A 0x93) fun t =>
      t.pc == 0x0101 && t.flags == ⟨false, false, false, false, false⟩ && t.reg .h == 0x93 && t.reg .l == 0x3D &&
      t.sp == 0x123B := by
  decide

theorem test_SK10_popPsw :
    after (start 0x0100 [0xF1] |>.setSp 0x2C00 |>.writeMem 0x2C00 0xFF |>.writeMem 0x2C01 0x01) fun t =>
      t.pc == 0x0101 && t.flags == ⟨true, true, true, true, true⟩ && t.reg .a == 0x01 && t.sp == 0x2C02 := by
  decide

theorem test_BR3_jnz :
    after (start 0x0004 [0xC2, 0x10, 0x00]) fun t =>
      t.pc == 0x0010 && t.flags == ⟨false, false, false, false, false⟩ := by
  decide

theorem test_BR4_jnz :
    after (start 0x0004 [0xC2, 0x10, 0x00] |>.setFlags ⟨true, false, false, false, false⟩) fun t =>
      t.pc == 0x0007 && t.flags == ⟨true, false, false, false, false⟩ := by
  decide

theorem test_BR5_jz :
    after (start 0x0000 [0xCA, 0x34, 0x12]) fun t =>
      t.pc == 0x0003 && t.flags == ⟨false, false, false, false, false⟩ := by
  decide

theorem test_BR6_jz :
    after (start 0x0000 [0xCA, 0x34, 0x12] |>.setFlags ⟨true, false, false, false, false⟩) fun t =>
      t.pc == 0x1234 && t.flags == ⟨true, false, false, false, false⟩ := by
  decide

theorem test_BR7_jnc :
    after (start 0x0000 [0xD2, 0x34, 0x12]) fun t =>
      t.pc == 0x1234 && t.flags == ⟨false, false, false, false, false⟩ := by
  decide

theorem test_BR8_jnc :
    after (start 0x0000 [0xD2, 0x34, 0x12] |>.setFlags ⟨false, false, false, true, false⟩) fun t =>
      t.pc == 0x0003 && t.flags == ⟨false, false, false, true, false⟩ := by
  decide

theorem test_BR9_jc :
    after (start 0x0000 [0xDA, 0x34, 0x12]) fun t =>
      t.pc == 0x0003 && t.flags == ⟨false, false, false, false, false⟩ := by
  decide

theorem test_BR10_jc :
    after (start 0x0000 [0xDA, 0x34, 0x12] |>.setFlags ⟨false, false, false, true, false⟩) fun t =>
      t.pc == 0x1234 && t.flags == ⟨false, false, false, true, false⟩ := by
  decide

theorem test_BR11_jpo :
    after (start 0x0000 [0xE2, 0x34, 0x12]) fun t =>
      t.pc == 0x1234 && t.flags == ⟨false, false, false, false, false⟩ := by
  decide

theorem test_BR12_jpo :
    after (start 0x0000 [0xE2, 0x34, 0x12] |>.setFlags ⟨false, false, true, false, false⟩) fun t =>
      t.pc == 0x0003 && t.flags == ⟨false, false, true, false, false⟩ := by
  decide

theorem test_BR13_jpe :
    after (start 0x0000 [0xEA, 0x34, 0x12]) fun t =>
      t.pc == 0x0003 && t.flags == ⟨false, false, false, false, false⟩ := by
  decide

theorem test_BR14_jpe :
    after (start 0x0000 [0xEA, 0x34, 0x12] |>.setFlags ⟨false, false, true, false, false⟩) fun t =>
      t.pc == 0x1234 && t.flags == ⟨false, false, true, false, false⟩ := by
  decide

theorem test_BR15_jp :
    after (start 0x0000 [0xF2, 0x34, 0x12]) fun t =>
      t.pc == 0x1234 && t.flags == ⟨false, false, false, false, false⟩ := by
  decide

theorem test_BR16_jp :
    after (start 0x0000 [0xF2, 0x34, 0x12] |>.setFlags ⟨false, true, false, false, false⟩) fun t =>
      t.pc == 0x0003 && t.flags == ⟨false, true, false, false, false⟩ := by
  decide

theorem test_BR17_jm :
    after (start 0x0000 [0xFA, 0x34, 0x12]) fun t =>
      t.pc == 0x0003 && t.flags == ⟨false, false, false, false, false⟩ := by
  decide

theorem test_BR18_jm :
    after (start 0x0000 [0xFA, 0x34, 0x12] |>.setFlags ⟨false, true, false, false, false⟩) fun t =>
      t.pc == 0x1234 && t.flags == ⟨false, true, false, false, false⟩ := by
  decide

theorem test_BR1_jmp :
    after (start 0x0100 [0xC3, 0x00, 0x3E] |>.setFlags ⟨true, true, true, true, true⟩) fun t =>
      t.pc == 0x3E00 && t.flags == ⟨true, true, true, true, true⟩ := by
  decide

theorem test_CL4_cnz :
    after (start 0x0010 [0xC4, 0x50, 0x00] |>.setSp 0x2400) fun t =>
      t.pc == 0x0050 && t.flags == ⟨false, false, false, false, false⟩ && t.sp == 0x23FE &&
      t.readMem 0x23FE == 0x13 := by
  decide

theorem test_CL5_cnz :
    after (start 0x0010 [0xC4, 0x50, 0x00] |>.setSp 0x2400 |>.setFlags ⟨true, false, false, false, false⟩) fun t =>
      t.pc == 0x0013 && t.flags == ⟨true, false, false, false, false⟩ := by
  decide

theorem test_CL6_cz :
    after (start 0x0010 [0xCC, 0x50, 0x00] |>.setSp 0x2400 |>.setFlags ⟨true, false, false, false, false⟩) fun t =>
      t.pc == 0x0050 && t.flags == ⟨true, false, false, false, false⟩ && t.sp == 0x23FE &&
      t.readMem 0x23FE == 0x13 := by
  decide

theorem test_CL7_cz :
    after (start 0x0010 [0xCC, 0x50, 0x00] |>.setSp 0x2400) fun t =>
      t.pc == 0x0013 && t.flags == ⟨false, false, false, false, false⟩ := by
  decide

theorem test_CL8_cnc :
    after (start 0x0010 [0xD4, 0x50, 0x00] |>.setSp 0x2400) fun t =>
      t.pc == 0x0050 && t.flags == ⟨false, false, false, false, false⟩ && t.sp == 0x23FE &&
      t.readMem 0x23FE == 0x13 := by
  decide

theorem test_CL9_cnc :
    after (start 0x0010 [0xD4, 0x50, 0x00] |>.setSp 0x2400 |>.setFlags ⟨false, false, false, true, false⟩) fun t =>
      t.pc == 0x0013 && t.flags == ⟨false, false, false, true, false⟩ := by
  decide

theorem test_CL10_cc :
    after (start 0x0010 [0xDC, 0x50, 0x00] |>.setSp 0x2400 |>.setFlags ⟨false, false, false, true, false⟩) fun t =>
      t.pc == 0x0050 && t.flags == ⟨false, false, false, true, false⟩ && t.sp == 0x23FE &&
      t.readMem 0x23FE == 0x13 := by
  decide

theorem test_CL11_cc :
    after (start 0x0010 [0xDC, 0x50, 0x00] |>.setSp 0x2400) fun t =>
      t.pc == 0x0013 && t.flags == ⟨false, false, false, false, false⟩ := by
  decide

theorem test_CL12_cpo :
    after (start 0x0010 [0xE4, 0x50, 0x00] |>.setSp 0x2400) fun t =>
      t.pc == 0x0050 && t.flags == ⟨false, false, false, false, false⟩ && t.sp == 0x23FE &&
      t.readMem 0x23FE == 0x13 := by
  decide

theorem test_CL13_cpo :
    after (start 0x0010 [0xE4, 0x50, 0x00] |>.setSp 0x2400 |>.setFlags ⟨false, false, true, false, false⟩) fun t =>
      t.pc == 0x0013 && t.flags == ⟨false, false, true, false, false⟩ := by
  decide

theorem test_CL14_cpe :
    after (start 0x0010 [0xEC, 0x50, 0x00] |>.setSp 0x2400 |>.setFlags ⟨false, false, true, false, false⟩) fun t =>
      t.pc == 0x0050 && t.flags == ⟨false, false, true, false, false⟩ && t.sp == 0x23FE &&
      t.readMem 0x23FE == 0x13 := by
  decide

theorem test_CL15_cpe :
    after (start 0x0010 [0xEC, 0x50, 0x00] |>.setSp 0x2400) fun t =>
      t.pc == 0x0013 && t.flags == ⟨false, false, false, false, false⟩ := by
  decide

theorem test_CL16_cp :
    after (start 0x0010 [0xF4, 0x50, 0x00] |>.setSp 0x2400) fun t =>
      t.pc == 0x0050 && t.flags == ⟨false, false, false, false, false⟩ && t.sp == 0x23FE &&
      t.readMem 0x23FE == 0x13 := by
  decide

theorem test_CL17_cp :
    after (start 0x0010 [0xF4, 0x50, 0x00] |>.setSp 0x2400 |>.setFlags ⟨false, true, false, false, false⟩) fun t =>
      t.pc == 0x0013 && t.flags == ⟨false, true, false, false, false⟩ := by
  decide

theorem test_CL18_cm :
    after (start 0x0010 [0xFC, 0x50, 0x00] |>.setSp 0x2400 |>.setFlags ⟨false, true, false, false, false⟩) fun t =>
      t.pc == 0x0050 && t.flags == ⟨false, true, false, false, false⟩ && t.sp == 0x23FE &&
      t.readMem 0x23FE == 0x13 := by
  decide

theorem test_CL19_cm :
    after (start 0x0010 [0xFC, 0x50, 0x00] |>.setSp 0x2400) fun t =>
      t.pc == 0x0013 && t.flags == ⟨false, false, false, false, false⟩ := by
  decide

theorem test_SK3_pushRp :
    after (start 0x0100 [0xE5] |>.setReg .h 0xAB |>.setReg .l 0xCD |>.setSp 0x0001) fun t =>
      t.pc == 0x0101 && t.flags == ⟨false, false, false, false, false⟩ && t.sp == 0xFFFF &&
      t.readMem 0x0000 == 0xAB && t.readMem 0xFFFF == 0xCD := by
  decide

theorem test_SK6_pushPsw :
    after (start 0x0100 [0xF5] |>.setReg .a 0xFF |>.setSp 0x502A
        |>.setFlags ⟨true, true, true, true, true⟩) fun t =>
      t.pc == 0x0101 && t.flags == ⟨true, true, true, true, true⟩ && t.sp == 0x5028 &&
      t.readMem 0x5028 == 0xD7 && t.readMem 0x5029 == 0xFF := by
  decide

theorem test_AR7_adi :
    after (start 0x0100 [0xC6, 0x42] |>.setReg .a 0x14) fun t =>
      t.pc == 0x0102 && t.flags == ⟨false, false, true, false, false⟩ && t.reg .a == 0x56 := by
  decide

theorem test_AR13_aci :
    after (start 0x0100 [0xCE, 0xBE] |>.setReg .a 0x56) fun t =>
      t.pc == 0x0102 && t.flags == ⟨false, false, true, true, true⟩ && t.reg .a == 0x14 := by
  decide

theorem test_AR18_sui :
    after (start 0x0100 [0xD6, 0x01] |>.setReg .a 0x00) fun t =>
      t.pc == 0x0102 && t.flags == ⟨false, true, true, true, true⟩ && t.reg .a == 0xFF := by
  decide

theorem test_AR25_sbi :
    after (start 0x0100 [0xDE, 0x01] |>.setReg .a 0x00 |>.setFlags ⟨false, false, false, true, false⟩) fun t =>
      t.pc == 0x0102 && t.flags == ⟨false, true, false, true, true⟩ && t.reg .a == 0xFE := by
  decide

theorem test_LG4_ani :
    after (start 0x0100 [0xE6, 0x0F] |>.setReg .a 0x3A) fun t =>
      t.pc == 0x0102 && t.flags == ⟨false, false, true, false, true⟩ && t.reg .a == 0x0A := by
  decide

theorem test_LG5_ani :
    after (start 0x0100 [0xE6, 0xF0] |>.setReg .a 0xF7 |>.setFlags ⟨false, false, false, true, true⟩) fun t =>
      t.pc == 0x0102 && t.flags == ⟨false, true, true, false, false⟩ && t.reg .a == 0xF0 := by
  decide

theorem test_LG9_xri :
    after (start 0x0100 [0xEE, 0x81] |>.setReg .a 0x3B) fun t =>
      t.pc == 0x0102 && t.flags == ⟨false, true, false, false, false⟩ && t.reg .a == 0xBA := by
  decide

theorem test_LG13_ori :
    after (start 0x0100 [0xF6, 0x0F] |>.setReg .a 0xB5) fun t =>
      t.pc == 0x0102 && t.flags == ⟨false, true, false, false, false⟩ && t.reg .a == 0xBF := by
  decide

theorem test_LG18_cpi :
    after (start 0x0100 [0xFE, 0x40] |>.setReg .a 0x4A) fun t =>
      t.pc == 0x0102 && t.flags == ⟨false, false, true, false, false⟩ := by
  decide

theorem test_RS5_rst :
    after (start 0x0123 [0xEF] |>.setSp 0x2400) fun t =>
      t.pc == 0x0028 && t.flags == ⟨false, false, false, false, false⟩ && t.sp == 0x23FE &&
      t.readMem 0x23FE == 0x24 && t.readMem 0x23FF == 0x01 := by
  decide

theorem test_RT20_ret :
    after (start 0x0060 [0xC9] |>.setSp 0x23FE |>.writeMem 0x23FE 0x13) fun t =>
      t.pc == 0x0013 && t.flags == ⟨false, false, false, false, false⟩ && t.sp == 0x2400 := by
  decide

theorem test_CL1_call :
    after (start 0x0010 [0xCD, 0x50, 0x00] |>.setSp 0x2400) fun t =>
      t.pc == 0x0050 && t.flags == ⟨false, false, false, false, false⟩ && t.sp == 0x23FE &&
      t.readMem 0x23FE == 0x13 := by
  decide

theorem test_CL3_call :
    after (start 0xFFFD [0xCD, 0x00, 0x10] |>.setSp 0x2400 |>.writeMem 0x23FE 0x55 |>.writeMem 0x23FF 0x55) fun t =>
      t.pc == 0x1000 && t.flags == ⟨false, false, false, false, false⟩ && t.sp == 0x23FE &&
      t.readMem 0x23FE == 0x00 && t.readMem 0x23FF == 0x00 := by
  decide

theorem test_SK23_out :
    after (start 0x0100 [0xD3, 0x10] |>.setReg .a 0x41) fun t =>
      t.pc == 0x0102 && t.flags == ⟨false, false, false, false, false⟩ && t.ioOut == [(0x10, 0x41)] := by
  decide

theorem test_SK12_xthl :
    after (start 0x0100 [0xE3] |>.setReg .h 0x0B |>.setReg .l 0x3C |>.setSp 0x10AD |>.writeMem 0x10AD 0xF0
        |>.writeMem 0x10AE 0x0D) fun t =>
      t.pc == 0x0101 && t.flags == ⟨false, false, false, false, false⟩ && t.reg .h == 0x0D && t.reg .l == 0xF0 &&
      t.readMem 0x10AD == 0x3C && t.readMem 0x10AE == 0x0B := by
  decide

theorem test_SK13_xthl :
    after (start 0x0100 [0xE3] |>.setReg .h 0xAA |>.setReg .l 0xBB |>.setSp 0xFFFF |>.writeMem 0xFFFF 0x11
        |>.writeMem 0x0000 0x22) fun t =>
      t.pc == 0x0101 && t.flags == ⟨false, false, false, false, false⟩ && t.reg .h == 0x22 && t.reg .l == 0x11 &&
      t.readMem 0x0000 == 0xAA && t.readMem 0xFFFF == 0xBB := by
  decide

theorem test_BR19_pchl :
    after (start 0x0100 [0xE9] |>.setReg .h 0x41 |>.setReg .l 0x3E) fun t =>
      t.pc == 0x413E && t.flags == ⟨false, false, false, false, false⟩ := by
  decide

theorem test_DT23_xchg :
    after (start 0x0100 [0xEB] |>.setReg .h 0x00 |>.setReg .l 0xFF |>.setReg .d 0x33 |>.setReg .e 0x55) fun t =>
      t.pc == 0x0101 && t.flags == ⟨false, false, false, false, false⟩ && t.reg .d == 0x00 && t.reg .e == 0xFF &&
      t.reg .h == 0x33 && t.reg .l == 0x55 := by
  decide

theorem test_SK17_di :
    after (start 0x0100 [0xF3] |>.setIe true) fun t =>
      t.pc == 0x0101 && t.flags == ⟨false, false, false, false, false⟩ && t.ie == false := by
  decide

theorem test_SK14_sphl :
    after (start 0x0100 [0xF9] |>.setReg .h 0x50 |>.setReg .l 0x6C) fun t =>
      t.pc == 0x0101 && t.flags == ⟨false, false, false, false, false⟩ && t.sp == 0x506C := by
  decide

theorem test_SK15_ei :
    after (start 0x0100 [0xFB]) fun t =>
      t.pc == 0x0101 && t.flags == ⟨false, false, false, false, false⟩ && t.ie == true := by
  decide

theorem test_UDCB_unassignedJmp :
    after (start 0x0100 [0xCB, 0x00, 0x3E] |>.setSp 0x2400) fun t =>
      t.pc == 0x0100 && t.flags == ⟨false, false, false, false, false⟩ && t.run == .halted &&
      t.result == .unknownOpcode 0xCB 0x0100 := by
  decide

theorem test_UACB_unassignedJmp :
    after (aliasMode (start 0x0100 [0xCB, 0x00, 0x3E]) |>.setSp 0x2400) fun t =>
      t.pc == 0x3E00 && t.flags == ⟨false, false, false, false, false⟩ := by
  decide

theorem test_UDD9_unassignedRet :
    after (start 0x0100 [0xD9] |>.setSp 0x23FE |>.writeMem 0x23FE 0x13) fun t =>
      t.pc == 0x0100 && t.flags == ⟨false, false, false, false, false⟩ && t.run == .halted &&
      t.result == .unknownOpcode 0xD9 0x0100 := by
  decide

theorem test_UAD9_unassignedRet :
    after (aliasMode (start 0x0100 [0xD9]) |>.setSp 0x23FE |>.writeMem 0x23FE 0x13) fun t =>
      t.pc == 0x0013 && t.flags == ⟨false, false, false, false, false⟩ && t.sp == 0x2400 := by
  decide

theorem test_UDED_unassignedCall :
    after (start 0x0010 [0xED, 0x50, 0x00] |>.setSp 0x2400) fun t =>
      t.pc == 0x0010 && t.flags == ⟨false, false, false, false, false⟩ && t.run == .halted &&
      t.result == .unknownOpcode 0xED 0x0010 := by
  decide

theorem test_UAFD_unassignedCall :
    after (aliasMode (start 0x0010 [0xFD, 0x50, 0x00]) |>.setSp 0x2400) fun t =>
      t.pc == 0x0050 && t.flags == ⟨false, false, false, false, false⟩ && t.sp == 0x23FE &&
      t.readMem 0x23FE == 0x13 := by
  decide

/-- IN: A is the byte the environment supplies for the first IN, whatever it is. -/
theorem test_SK22_inp :
    after (start 0x0100 [0xDB, 0x01]) (fun t =>
      t.pc == 0x0102 && t.inCount == 1 && t.reg .a == Config.portIn 0x01 0) = true := by
  show (true && true && (Config.portIn 0x01 0 == Config.portIn 0x01 0)) = true
  rw [BEq.rfl]
  rfl

/-! ### The other values of the parameters -/

/-- AR16 and LG1 with `AC_SUB_POLARITY = carry` and `ANA_AC_MODE = zero`. -/
theorem test_carry_polarity :
    (sub8 .carry 0x00 0x01 false).flags = ⟨false, true, true, true, false⟩ ∧
    (and8 .zero 0xFC 0x0F).flags = ⟨false, false, true, false, false⟩ := by
  decide

/-- The same machine with the other value of `AC_SUB_POLARITY` and of `ANA_AC_MODE`. -/
def otherModes (s : State) : State := { s with config := { s.config with acSubPolarity := .carry, anaAcMode := .zero } }

/-- AR16 with `AC_SUB_POLARITY = carry`, as a step: SUB B. -/
theorem test_AR16_sub_carry :
    after (otherModes (start 0x0100 [0x90]) |>.setReg .b 0x01) fun t =>
      t.pc == 0x0101 && t.reg .a == 0xFF && t.flags == ⟨false, true, true, true, false⟩ := by
  decide

/-- LG1 with `ANA_AC_MODE = zero`, as a step: ANA C. -/
theorem test_LG1_ana_zero :
    after (otherModes (start 0x0100 [0xA1]) |>.setReg .a 0xFC |>.setReg .c 0x0F) fun t =>
      t.pc == 0x0101 && t.reg .a == 0x0C && t.flags == ⟨false, false, true, false, false⟩ := by
  decide

/-- A stubbed opcode is reported, also when it is HLT. -/
theorem test_unimpl_hlt :
    after { start 0x0005 [0x76] with config := { resetConfig with unimpl := [0x76] } } fun t =>
      t.pc == 0x0005 && t.run == .halted && t.result == .unimplementedOpcode 0x76 0x0005 := by
  decide

/-- No step from a Halted state. -/
theorem test_halted_is_stuck : step { start 0 [0x00] with run := .halted } = .fault .haltedMachine := rfl

/-- A table word stored where the step fetches is what runs. -/
theorem test_with_fetch_word :
    after (State.reset.withFetchWord 16 0x773E) fun t => t.reg .a == 0x77 && t.pc == 0x0002 := by
  decide

/-! ## Witnesses: the hypotheses of each obligation that has some, met together -/

theorem witness_DecodeEncodeRoundTrip : (Instr.popRp .h).wellFormed = true := by decide

theorem witness_StepRunsDecodedInstruction :
    (start 0xFFFE [0x11, 0x44, 0x55]).run = .running ∧
    (start 0xFFFE [0x11, 0x44, 0x55]).readMem 0xFFFE ∉ (start 0xFFFE [0x11, 0x44, 0x55]).config.unimpl := by
  decide

/-- LXI D,5544H across the top of memory. -/
theorem witness_StepRunsInstructionInMemory :
    let s := start 0xFFFE [0x11, 0x44, 0x55]
    let i := Instr.lxi .d 0x5544
    i.wellFormed = true ∧ s.run = .running ∧ opcode i ∉ s.config.unimpl ∧
    ∀ k v, (encode i)[k]? = some v → s.readMem (s.pc + BitVec.ofNat 16 k) = v := by
  refine ⟨rfl, rfl, List.not_mem_nil, ?_⟩
  intro k v h
  match k with
  | 0 => exact Option.some.inj (h ▸ rfl)
  | 1 => exact Option.some.inj (h ▸ rfl)
  | 2 => exact Option.some.inj (h ▸ rfl)
  | k + 3 => cases h

theorem witness_HaltedMachineTakesNoStep : ({ State.reset with run := .halted } : State).run = .halted := rfl

/-- A running state with the invariant whose step answers a next state. -/
theorem witness_HaltsExactlyOnHltOrSignal :
    (start 0x0005 [0x76]).mem.wf = true ∧ (start 0x0005 [0x76]).result = .continued ∧
    (start 0x0005 [0x76]).run = .running ∧
    step (start 0x0005 [0x76]) = .next (((start 0x0005 [0x76]).advance 1).stop .halted) :=
  ⟨by decide, rfl, rfl, rfl⟩

theorem witness_StepKeepsInvariant : (start 0x0005 [0x08]).Inv ∧ (start 0x0005 [0x08]).run = .running ∧
    step (start 0x0005 [0x08]) = .next ((start 0x0005 [0x08]).raiseUnknown 0x08) := by
  exact ⟨⟨by decide, rfl⟩, rfl, rfl⟩

theorem witness_StepResultIsOneOfFour : State.reset.Inv ∧ State.reset.run = .running := ⟨⟨rfl, rfl⟩, rfl⟩

/-- The clauses: stubbed, unassigned in fault mode, HLT, and anything else. -/
theorem witness_FaultsAreReportedExactlyAndPrecisely :
    (let s : State := { start 0x0005 [0x76] with config := { resetConfig with unimpl := [0x76] } };
      s.run = .running ∧ s.readMem s.pc ∈ s.config.unimpl) ∧
    (let s := start 0x0005 [0xFD];
      s.run = .running ∧ s.readMem s.pc ∉ s.config.unimpl ∧ isUnassigned (s.readMem s.pc) = true ∧
        s.config.undocMode = .faulting) ∧
    (let s := start 0x0005 [0x76];
      s.readMem s.pc ∉ s.config.unimpl ∧ isUnassigned (s.readMem s.pc) = false ∧ s.readMem s.pc = 0x76) ∧
    (let s := start 0xFFFF [0x00];
      s.readMem s.pc ∉ s.config.unimpl ∧ isUnassigned (s.readMem s.pc) = false ∧ s.readMem s.pc ≠ 0x76) := by
  decide

/-- The clauses: a taken transfer (RST 7 at the top of memory), one not taken, and a fault. -/
theorem witness_PcAdvancesByLengthOrTransfers :
    (let s := start 0xFFFF [0xFF];
      s.run = .running ∧ ¬ s.faultsAtDecode ∧ transferTarget s.fetchInstr s = some 0x0038) ∧
    (let s := start 0xFFFE [0xCA, 0x34, 0x12];
      s.run = .running ∧ ¬ s.faultsAtDecode ∧ transferTarget s.fetchInstr s = none) ∧
    (start 0x0005 [0xED]).faultsAtDecode := by
  unfold State.faultsAtDecode
  decide

/-- The step from the state runs an instruction that stores the byte `v` at `k` past the new PC, and memory holds it. -/
def storesAhead (s : State) (k : Word) (v : Byte) : Bool :=
  after s fun t => (storedBytes s.fetchInstr s).contains (t.pc + k, v) && t.readMem (t.pc + k) == v

/-- The clauses: a store that lands on the next opcode (STA, INR M across the top of memory, PUSH, XTHL, CALL onto its
target, RST, the CALL alias, STA in a state with a stubbed opcode), on the byte after it (PUSH, XTHL), on the byte after
that (STA), and nowhere (NOP, a call not taken). -/
theorem witness_StoreIsSeenByTheNextFetch :
    let sta := start 0x0100 [0x32, 0x03, 0x01] |>.setReg .a 0x99
    let staPast := start 0x0100 [0x32, 0x05, 0x01] |>.setReg .a 0x99
    let inrM := (start 0xFFFF [0x34]).writeMem 0x0000 0x3B
    let push := start 0x0100 [0xC5] |>.setSp 0x0103 |>.setReg .b 0x12 |>.setReg .c 0x34
    let xthl := start 0x0100 [0xE3] |>.setSp 0x0101 |>.setReg .h 0x76
    let call := start 0x0110 [0xCD, 0x00, 0x02] |>.setSp 0x0202
    let rst := start 0x0038 [0xC7] |>.setSp 0x0002
    let aliased := aliasMode (start 0x0110 [0xDD, 0x00, 0x02]) |>.setSp 0x0202
    let stubbed : State := { sta with config := { resetConfig with unimpl := [0x76] } }
    let skipped := start 0x0100 [0xDC, 0x00, 0x02]
    (∀ s ∈ [sta, staPast, inrM, push, xthl, call, rst, aliased, stubbed, skipped, start 0x0100 [0x00]],
      s.run = .running ∧ ¬ s.faultsAtDecode) ∧
    storesAhead sta 0 0x99 ∧ storesAhead staPast 2 0x99 ∧ storesAhead inrM 0 0x3C ∧
    storesAhead push 0 0x34 ∧ storesAhead push 1 0x12 ∧ storesAhead xthl 0 0x00 ∧ storesAhead xthl 1 0x76 ∧
    storesAhead call 0 0x13 ∧ storesAhead call 1 0x01 ∧ storesAhead rst 0 0x39 ∧ storesAhead aliased 0 0x13 ∧
    storesAhead stubbed 0 0x99 ∧ storedAddresses skipped.fetchInstr skipped = [] ∧
    storedAddresses .nop (start 0x0100 [0x00]) = [] ∧
    (after sta fun t => t.run == .running && !t.config.unimpl.contains t.fetchOpcode) := by
  unfold State.faultsAtDecode
  decide

theorem witness_ConstructionPlacesImage : (List.replicate 65536 (0x76 : Byte)).length ≤ 65536 ∧
    ([] : List Byte).length ≤ 65536 := by
  rw [List.length_replicate]
  decide

theorem witness_OversizedImageIsRefused : 65536 < (List.replicate 65537 (0 : Byte)).length ∧
    (List.replicate 65536 (0 : Byte)).length = 65536 ∧ ([] : List Byte).length = 0 := by
  rw [List.length_replicate, List.length_replicate]
  decide

theorem witness_CanonicalMemoryIsUnique :
    Memory.wf [(0, 1), (65535, 2)] = true ∧ ∀ a : Word, Memory.read [(0, 1), (65535, 2)] a.toNat =
      Memory.read (Memory.write [(0, 1)] 65535 2) a.toNat :=
  ⟨rfl, fun _ => rfl⟩

/-- Both values of `AC_SUB_POLARITY`, each in a state where it decides AC: A = 0x00, operand 0x01. -/
theorem witness_SubtractInstructions :
    (start 0x0100 [0xD6, 0x01]).config.acSubPolarity = .borrow ∧
    (after (start 0x0100 [0xD6, 0x01]) fun t => t.flags.ac == true) ∧
    (otherModes (start 0x0100 [0xD6, 0x01])).config.acSubPolarity = .carry ∧
    (after (otherModes (start 0x0100 [0xD6, 0x01])) fun t => t.flags.ac == false) := by
  decide

theorem witness_CompareInstructions :
    (start 0x0100 [0xFE, 0x01]).config.acSubPolarity = .borrow ∧
    (after (start 0x0100 [0xFE, 0x01]) fun t => t.flags.ac == true && t.reg .a == 0) ∧
    (otherModes (start 0x0100 [0xFE, 0x01])).config.acSubPolarity = .carry ∧
    (after (otherModes (start 0x0100 [0xFE, 0x01])) fun t => t.flags.ac == false && t.reg .a == 0) := by
  decide

theorem witness_IncrementDecrement :
    (start 0x0100 [0x3D]).config.acSubPolarity = .borrow ∧
    (after (start 0x0100 [0x3D]) fun t => t.reg .a == 0xFF && t.flags.ac == true) ∧
    (otherModes (start 0x0100 [0x3D])).config.acSubPolarity = .carry ∧
    (after (otherModes (start 0x0100 [0x3D])) fun t => t.reg .a == 0xFF && t.flags.ac == false) := by
  decide

/-- Both values of `ANA_AC_MODE`, each in a state where it decides AC: A = 0x00, operand 0x08. -/
theorem witness_AndInstructions :
    (start 0x0100 [0xE6, 0x08]).config.anaAcMode = .orBit3 ∧
    (after (start 0x0100 [0xE6, 0x08]) fun t => t.reg .a == 0 && t.flags.ac == true) ∧
    (otherModes (start 0x0100 [0xE6, 0x08])).config.anaAcMode = .zero ∧
    (after (otherModes (start 0x0100 [0xE6, 0x08])) fun t => t.reg .a == 0 && t.flags.ac == false) := by
  decide

/-- Each pair, at a boundary value. -/
theorem witness_PairCounting :
    HoldsPair ((start 0 []).setReg .b 0xFF) .b 0xFF 0x00 ∧ HoldsPair ((start 0 []).setReg .e 0xFF) .d 0x00 0xFF ∧
    HoldsPair (((start 0 []).setReg .h 0xFF).setReg .l 0xFF) .h 0xFF 0xFF ∧ HoldsPair (start 0 []) .sp 0x00 0x00 :=
  ⟨⟨rfl, rfl⟩, ⟨rfl, rfl⟩, ⟨rfl, rfl⟩, rfl⟩

theorem witness_DadAddsPairToHl : HoldsPair ((start 0 []).setSp 0xFFFF) .sp 0xFF 0xFF := rfl

/-- The clauses of DAA: the low correction alone, the high one through the carry of the low one, and none. -/
theorem witness_DaaAdjustsInTwoSteps :
    (9 < (0x0A : Nat) % 16 ∧ ¬ 9 < (0x0A + 6) / 16) ∧ (9 < (0x9A : Nat) % 16 ∧ 9 < (0x9A + 6) / 16) ∧
    (¬ 9 < (0x99 : Nat) % 16 ∧ ¬ 9 < (0x99 + 0) / 16) := by
  decide

theorem witness_UnassignedOpcodesFault : (start 0 [0x08]).config.undocMode = .faulting := rfl

theorem witness_UnassignedOpcodesAlias : (aliasMode (start 0 [0x08])).config.undocMode = .aliased := rfl

/-- An instruction for each clause: some flag kept, SP kept. -/
theorem witness_FlagsWrittenOnlyAsTabled : (writesFlags (.dad .sp)).z = false ∧ (writesFlags .rlc).s = false ∧
    (writesFlags .cma).p = false ∧ (writesFlags .inrM).cy = false ∧ (writesFlags .stc).ac = false := by
  decide

theorem witness_StackPointerWrittenOnlyByStackInstructions : writesSp .xthl = false ∧ writesSp (.inx .h) = false := by
  decide

theorem witness_TraceAndCounter : (∀ port, Instr.nop ≠ .out port) ∧ ∀ port, Instr.nop ≠ .inp port := ⟨nofun, nofun⟩

theorem witness_InterruptEnableOnlyToggled : Instr.hlt ≠ .ei ∧ Instr.hlt ≠ .di := ⟨nofun, nofun⟩

end Sys2Proof.Tests
end

section
/-! The interrupt-enable bit (10_state.md R33). One fact carries the noninterference: every meaning but those of EI and
DI commutes with `setIe`. That the bit is kept is the instance at the value it already has. -/

namespace Sys2Proof.Machine

namespace State

/-! Whether a conditional transfer is taken does not depend on the bit, and each of its two outcomes keeps it. -/

variable (s : State) (b : Bool)

theorem jumpIf_setIe (cond : Cond) (a16 : Word) : (s.setIe b).jumpIf cond a16 = (s.jumpIf cond a16).setIe b :=
  (apply_ite (setIe · b) (s.flags.holds cond) (s.setPc a16) (s.advance 3)).symm

theorem callIf_setIe (cond : Cond) (a16 : Word) : (s.setIe b).callIf cond a16 = (s.callIf cond a16).setIe b :=
  (apply_ite (setIe · b) (s.flags.holds cond) (s.callFrom 3 a16) (s.advance 3)).symm

theorem returnIf_setIe (cond : Cond) : (s.setIe b).returnIf cond = (s.returnIf cond).setIe b :=
  (apply_ite (setIe · b) (s.flags.holds cond) s.popPc (s.advance 1)).symm

/-- Neither the fault report of an unassigned byte nor the choice of it reads the bit (R311, R313). -/
theorem unassigned_setIe (op : Byte) (alt : State) :
    (s.setIe b).unassigned op (alt.setIe b) = (s.unassigned op alt).setIe b := by
  cases h : s.config.undocMode with
  | faulting => rw [unassigned_faulting h, unassigned_faulting (s := s.setIe b) h]; rfl
  | aliased => rw [unassigned_aliased h, unassigned_aliased (s := s.setIe b) h]

end State

/-- Every instruction but EI and DI commutes with a write of the interrupt-enable bit. -/
theorem exec_setIe {i : Instr} (hei : i ≠ .ei) (hdi : i ≠ .di) (s : State) :
    ∃ t, exec i s = .next t ∧ ∀ b, exec i (s.setIe b) = .next (t.setIe b) := by
  cases i
  case ei => exact absurd rfl hei
  case di => exact absurd rfl hdi
  case lxi p _ | inx p | dcx p | popRp p => cases p <;> exact ⟨_, rfl, fun _ => rfl⟩
  case jnz a16 | jz a16 | jnc a16 | jc a16 | jpo a16 | jpe a16 | jp a16 | jm a16 =>
    exact ⟨_, rfl, fun b => congrArg _ (s.jumpIf_setIe b _ a16)⟩
  case cnz a16 | cz a16 | cnc a16 | cc a16 | cpo a16 | cpe a16 | cp a16 | cm a16 =>
    exact ⟨_, rfl, fun b => congrArg _ (s.callIf_setIe b _ a16)⟩
  case rnz | rz | rnc | rc | rpo | rpe | rp | rm =>
    exact ⟨_, rfl, fun b => congrArg _ (s.returnIf_setIe b _)⟩
  case unassignedNop x => exact ⟨_, rfl, fun b => congrArg _ (s.unassigned_setIe b _ (s.advance 1))⟩
  case unassignedJmp => exact ⟨_, rfl, fun b => congrArg _ (s.unassigned_setIe b _ (s.setPc s.operand16))⟩
  case unassignedRet => exact ⟨_, rfl, fun b => congrArg _ (s.unassigned_setIe b _ s.popPc)⟩
  case unassignedCall x => exact ⟨_, rfl, fun b => congrArg _ (s.unassigned_setIe b _ (s.callFrom 3 s.operand16))⟩
  -- The other meanings have no branch: they read and write other fields only, by definition.
  all_goals exact ⟨_, rfl, fun _ => rfl⟩

end Sys2Proof.Machine

namespace Sys2Proof

open Machine

/-- Settles O56: EI and DI write the bit by their meaning, and every other instruction commutes with `setIe`. -/
theorem interruptEnableOnlyToggled : Obligations.InterruptEnableOnlyToggled := by
  refine ⟨rfl, fun i s b => ?_⟩
  by_cases hei : i = .ei
  · subst hei
    exact ⟨_, rfl, fun _ => rfl, nofun, fun h => absurd rfl h⟩
  by_cases hdi : i = .di
  · subst hdi
    exact ⟨_, rfl, nofun, fun _ => rfl, fun _ h => absurd rfl h⟩
  obtain ⟨t, ht, hset⟩ := exec_setIe hei hdi s
  have hself : t = t.setIe s.ie := Host.Outcome.next.inj (ht.symm.trans (hset s.ie))
  have hkeep : t.ie = s.ie := by rw [hself, State.setIe_ie]
  exact ⟨t, ht, fun h => absurd h hei, fun h => absurd h hdi, fun _ _ => ⟨hkeep, hset b⟩⟩

end Sys2Proof
end

section
/-! The stack operations in numbers (20_memory.md R60, R61): the two bytes a push stores, the word a pop reads, and SP
modulo 65,536. -/

namespace Sys2Proof.Machine

namespace State

variable (s : State)

theorem readMem_push16_high (v : Word) : (s.push16 v).readMem (s.sp - 1) = hiByte v := by
  rw [readMem_push16, if_neg (sub_one_ne_sub_two s.sp), if_pos rfl]

theorem readMem_push16_low (v : Word) : (s.push16 v).readMem (s.sp - 2) = loByte v := by
  rw [readMem_push16, if_pos rfl]

theorem push16_sp_toNat (v : Word) : (s.push16 v).sp.toNat = (s.sp.toNat + 65534) % 65536 := by
  rw [push16_sp]
  bv_omega

theorem pop16_sp_toNat : s.pop16.sp.toNat = (s.sp.toNat + 2) % 65536 := by
  rw [pop16_sp]
  bv_omega

theorem top16_toNat : s.top16.toNat = (s.readMem (s.sp + 1)).toNat * 256 + (s.readMem s.sp).toNat := by
  rw [top16_eq, mkWord_toNat]

end State

theorem keepsControl_push16 (s : State) (v : Word) : KeepsControl s (s.push16 v) :=
  ⟨s.push16_ie v, s.push16_run v, s.push16_result v, s.push16_ioOut v, s.push16_inCount v, s.push16_config v⟩

theorem keepsControl_pop16 (s : State) : KeepsControl s s.pop16 :=
  ⟨s.pop16_ie, s.pop16_run, s.pop16_result, s.pop16_ioOut, s.pop16_inCount, s.pop16_config⟩

end Sys2Proof.Machine

namespace Sys2Proof

open Machine

/-- Settles O48: SP-1 and SP-2 are different cells, so each of the two stored bytes is there after the push, and a pop
writes SP only. -/
theorem stackOperations : Obligations.StackOperations := by
  intro s v
  have pushSame : KeepsRegsBut [] s (s.push16 v) ∧ (s.push16 v).flags = s.flags ∧ (s.push16 v).pc = s.pc ∧
      KeepsControl s (s.push16 v) :=
    ⟨fun r _ => s.push16_reg v r, s.push16_flags v, s.push16_pc v, keepsControl_push16 s v⟩
  have popSame : KeepsRegsBut [] s s.pop16 ∧ s.pop16.flags = s.flags ∧ s.pop16.pc = s.pc ∧ KeepsControl s s.pop16 :=
    ⟨fun r _ => s.pop16_reg r, s.pop16_flags, s.pop16_pc, keepsControl_pop16 s⟩
  have high : ((s.push16 v).readMem (s.sp - 1)).toNat = v.toNat / 256 := by
    rw [s.readMem_push16_high, hiByte_toNat]
  have low : ((s.push16 v).readMem (s.sp - 2)).toNat = v.toNat % 256 := by
    rw [s.readMem_push16_low, loByte_toNat]
  exact ⟨high, low, s.push16_sp_toNat v, keepsMemBut_push16 s v, pushSame, s.top16_toNat, s.pop16_sp_toNat,
    s.pop16_readMem, popSame⟩

end Sys2Proof
end

section

namespace Sys2Proof

/-- Settles O3: the opcode at the head of each list fixes how many bytes are taken (R88), two for MVI and one for ADD,
INR and HLT, and the decoder computes on those bytes. -/
theorem sourceImagesDecode : Obligations.SourceImagesDecode :=
  have mviA5 := decodeBytes_two (op := 0x3E) rfl 0x05 [0x06, 0x03, 0x80, 0x76]
  have mviB3 := decodeBytes_two (op := 0x06) rfl 0x03 [0x80, 0x76]
  have addB := decodeBytes_one (op := 0x80) rfl [0x76]
  have hlt := decodeBytes_one (op := 0x76) rfl []
  have mviAFF := decodeBytes_two (op := 0x3E) rfl 0xFF [0x3C, 0x76]
  have inrA := decodeBytes_one (op := 0x3C) rfl [0x76]
  ⟨mviA5, mviB3, addB, hlt, mviAFF, inrA⟩

end Sys2Proof
end

section
/-! INR and DCR (40_alu_flag_rules.md R117): addition and subtraction specialised to the operand 1, and what `countTo`, the
shared operation of the four forms, does to a register and to the byte at H:L. -/

namespace Sys2Proof.Machine

theorem IsSum.increment {v res : Byte} {cy ac : Bool} (h : IsSum v 1 false res cy ac) :
    res.toNat = (v.toNat + 1) % 256 ∧ (ac = true ↔ v.toNat % 16 = 15) := by
  obtain ⟨hres, -, hac⟩ := h
  have one : (1 : Byte).toNat = 1 := rfl
  rw [one, Bool.toNat_false] at hres hac
  exact ⟨hres, hac.trans (by omega)⟩

theorem IsDifference.decrement {polarity : AcSubPolarity} {v res : Byte} {cy ac : Bool}
    (h : IsDifference polarity v 1 false res cy ac) :
    res.toNat = (v.toNat + 255) % 256 ∧ (polarity = .borrow → (ac = true ↔ v.toNat % 16 = 0)) ∧
      (polarity = .carry → (ac = true ↔ v.toNat % 16 ≠ 0)) := by
  obtain ⟨hres, -, hborrow, hcarry⟩ := h
  have one : (1 : Byte).toNat = 1 := rfl
  rw [one, Bool.toNat_false] at hres hborrow hcarry
  have := res.isLt
  exact ⟨by omega, fun p => (hborrow p).trans (by omega), fun p => (hcarry p).trans (by omega)⟩

theorem flagsOfResult_countTo (s : State) (loc : Loc) (x : Alu8) : FlagsOfResult x.res (s.countTo loc x).flags :=
  flagsOfResult_of rfl rfl rfl

theorem keepsControl_countTo (s : State) (loc : Loc) (x : Alu8) : KeepsControl s (s.countTo loc x) := by
  cases loc <;> exact ⟨rfl, rfl, rfl, rfl, rfl, rfl⟩

theorem reg_countTo_reg (s : State) (r : Reg) (x : Alu8) : (s.countTo (.reg r) x).reg r = x.res :=
  s.reg_setReg_same r x.res

theorem changesOnlyRegs_countTo_reg (s : State) (r : Reg) (x : Alu8) : ChangesOnlyRegs [r] s (s.countTo (.reg r) x) :=
  ⟨keepsRegsBut_setReg s r x.res, rfl, fun _ => rfl, keepsControl_countTo s (.reg r) x⟩

theorem readMem_countTo_m (s : State) (x : Alu8) : (s.countTo .m x).readMem s.hl = x.res :=
  s.readMem_writeMem_same s.hl x.res

theorem keepsMemBut_countTo_m (s : State) (x : Alu8) : KeepsMemBut [s.hl] s (s.countTo .m x) :=
  keepsMemBut_writeMem s s.hl x.res

end Sys2Proof.Machine

namespace Sys2Proof

open Machine

/-- Settles O28: each form is `countTo` of an addition or a subtraction of 1, on a register or on the byte at H:L. What the
result and the flags are depends on the value only, so it is said once for both places. -/
theorem incrementDecrement : Obligations.IncrementDecrement := by
  intro s r flagsFor incremented decremented onReg onMem
  have inr (loc : Loc) (v : Byte) : incremented (s.countTo loc (add8 v 1 false)) v (add8 v 1 false).res := by
    obtain ⟨hres, hac⟩ := (add8_isSum v 1 false).increment
    exact ⟨hres, ⟨flagsOfResult_countTo s loc _, rfl⟩, hac⟩
  have dcr (loc : Loc) (v : Byte) : decremented (s.countTo loc (s.sub v 1 false)) v (s.sub v 1 false).res := by
    obtain ⟨hres, hborrow, hcarry⟩ := (sub8_isDifference s.config.acSubPolarity v 1 false).decrement
    exact ⟨hres, ⟨flagsOfResult_countTo s loc _, rfl⟩, hborrow, hcarry⟩
  have onReg_of {i : Instr} {x : Alu8} {changed : State → Byte → Byte → Prop}
      (h : exec i s = .next (s.countTo (.reg r) x)) (hx : changed (s.countTo (.reg r) x) (s.reg r) x.res) :
      onReg i changed :=
    ⟨_, h, by rwa [reg_countTo_reg], rfl, changesOnlyRegs_countTo_reg s r x⟩
  have onMem_of {i : Instr} {x : Alu8} {changed : State → Byte → Byte → Prop}
      (h : exec i s = .next (s.countTo .m x)) (hx : changed (s.countTo .m x) (s.readMem s.hl) x.res) :
      onMem i changed :=
    ⟨_, h, by rwa [← s.hl_eq, readMem_countTo_m], rfl, keepsMemBut_countTo_m s x, fun _ _ => rfl, rfl,
      keepsControl_countTo s .m x⟩
  exact ⟨onReg_of rfl (inr _ _), onReg_of rfl (dcr _ _), onMem_of rfl (inr _ _), onMem_of rfl (dcr _ _)⟩

end Sys2Proof
end

section
/-! The execution engine (46_execution_engine.md R290, R293, R295): `step_cases` lists how a step of a running machine
ends, and the invariant makes `Continued` the result an instruction other than HLT leaves. -/

namespace Sys2Proof.Machine

/-- A machine that runs has recorded no halt. -/
theorem State.Inv.result_of_running {s : State} (hinv : s.Inv) (hr : s.run = .running) : s.result = .continued := by
  have hagrees := hinv.2
  unfold State.resultAgrees at hagrees
  cases hres : s.result with
  | continued => rfl
  | halted | unimplementedOpcode | unknownOpcode =>
    rw [hres] at hagrees
    exact absurd (hr.symm.trans hagrees.1) nofun

theorem step_of_halted {s : State} (hh : s.run = .halted) : step s = .fault .haltedMachine := by
  simp only [step, hh]

end Sys2Proof.Machine

namespace Sys2Proof

open Machine

/-- Settles O9: the four ways of `step_cases`. An instruction other than HLT leaves the recorded result as it was, which
for a running machine is `Continued`. -/
theorem stepResultIsOneOfFour : Obligations.StepResultIsOneOfFour := by
  intro s hinv hr
  obtain ⟨-, hstep⟩ | ⟨-, -, -, hstep⟩ | ⟨-, hbyte, -, -, hstep⟩ | ⟨-, hbyte, -, hexec, t, hstep, hrun, hres⟩ :=
    step_cases hr
  case inl => exact ⟨_, hstep, .inr (.inr (.inl ⟨rfl, rfl⟩))⟩
  case inr.inl => exact ⟨_, hstep, .inr (.inr (.inr ⟨rfl, rfl⟩))⟩
  case inr.inr.inl => exact ⟨_, hstep, .inr (.inl ⟨rfl, rfl, hbyte, rfl⟩)⟩
  case inr.inr.inr =>
    exact ⟨t, hstep, .inl ⟨hres.trans (hinv.result_of_running hr), hrun, hbyte, hexec.symm.trans hstep⟩⟩

/-- Settles O8: that the machine halts is read off the four results, with HLT's opcode and the two faults the ones that
halt it; a step that reports no fault is `exec` of the instruction fetched; from Halted the step is no next state. -/
theorem haltsExactlyOnHltOrSignal : Obligations.HaltsExactlyOnHltOrSignal := by
  refine ⟨fun s t hinv hr ht => ?_, fun s t _ hr ht hnofault => ?_, fun s t hh ht => ?_⟩
  · obtain ⟨t', ht', hends⟩ := stepResultIsOneOfFour s hinv hr
    obtain rfl : t' = t := Host.Outcome.next.inj (ht'.symm.trans ht)
    obtain ⟨hres, hrun, hbyte, -⟩ | ⟨-, hrun, hbyte, -⟩ | ⟨hres, hrun⟩ | ⟨hres, hrun⟩ := hends
    · exact iff_of_false (by simp [hrun]) (not_or.mpr ⟨hbyte, by simp [hres]⟩)
    · exact iff_of_true hrun (.inl hbyte)
    · exact iff_of_true hrun (.inr (.inl ⟨_, _, hres⟩))
    · exact iff_of_true hrun (.inr (.inr ⟨_, _, hres⟩))
  · obtain ⟨-, hfault⟩ | ⟨-, -, -, hfault⟩ | ⟨-, -, -, hexec, -⟩ | ⟨-, -, -, hexec, -⟩ := step_cases hr
    · obtain rfl := Host.Outcome.next.inj (hfault.symm.trans ht)
      exact hnofault.elim nofun nofun
    · obtain rfl := Host.Outcome.next.inj (hfault.symm.trans ht)
      exact hnofault.elim nofun nofun
    · exact hexec.symm.trans ht
    · exact hexec.symm.trans ht
  · exact absurd ((step_of_halted hh).symm.trans ht) nofun

end Sys2Proof
end

section
/-! Construction: an image that does not fit is refused, and one that fits is read back at every address, with `MEM_TAIL`
beyond it. -/

namespace Sys2Proof.Machine

variable {p : StartParams} {image : List Byte}

theorem construct_of_too_large (h : memorySize < image.length) : construct p image = .error .imageTooLarge := if_pos h

/-- Each address of a constructed memory reads its image byte, or `MEM_TAIL` past the image's end. -/
theorem construct_readMem (h : image.length ≤ memorySize) :
    ∃ s, construct p image = .ok s ∧ ∀ a : Word, s.readMem a = image.getD a.toNat (p.memTail a.toNat) := by
  refine ⟨_, if_neg h.not_gt, fun a => ?_⟩
  rw [State.readMem, Memory.read_ofBytes _ a.isLt]

end Sys2Proof.Machine

namespace Sys2Proof

open Machine

/-- Settles O17: an image of 65,536 bytes fits and no address lies past its end; every address lies past the end of an
empty one. -/
theorem oversizedImageIsRefused : Obligations.OversizedImageIsRefused := by
  refine fun p image => ⟨construct_of_too_large, fun hfull => ?_, fun hempty => ?_⟩
  · obtain ⟨s, hs, hread⟩ := construct_readMem (p := p) hfull.le
    refine ⟨s, hs, fun a => ?_⟩
    have hin : a.toNat < image.length := hfull ▸ a.isLt
    rw [hread, List.getD_eq_getElem _ _ hin, List.getElem?_eq_getElem hin]
  · obtain rfl := List.eq_nil_of_length_eq_zero hempty
    exact construct_readMem (Nat.zero_le _)

end Sys2Proof
end

section
/-! Decoding and encoding (30_encoding.md). Two facts carry the statements: what the encoder gives for a decoded
instruction, said of every opcode byte, and that the opcode byte with the operand bytes decodes to the instruction, said
of every constructor. The length of an encoding is read off the first. -/

namespace Sys2Proof

@[simp] theorem wordBytes_mkWord (hi lo : Byte) : wordBytes (mkWord hi lo) = [lo, hi] := by
  rw [wordBytes, loByte_mkWord, hiByte_mkWord]

theorem wellFormed_decode (op b2 b3 : Byte) : (decode op b2 b3).wellFormed = true := by
  refine forall_byte (P := fun op => (decode op b2 b3).wellFormed = true) (fun n hn => ?_) op
  interval_cases n <;> rfl

theorem opcode_decode (op b2 b3 : Byte) : opcode (decode op b2 b3) = op := by
  refine forall_byte (P := fun op => opcode (decode op b2 b3) = op) (fun n hn => ?_) op
  interval_cases n <;> rfl

/-- The operand of an instruction of length 3 is the word, of length 2 the byte after the opcode (R87, R88). -/
theorem operandBytes_decode (op b2 b3 : Byte) :
    operandBytes (decode op b2 b3) =
      if opcodeLength .faulting op = 3 then wordBytes (mkWord b3 b2) else [b2].take (opcodeLength .faulting op - 1) := by
  refine forall_byte (P := fun op => operandBytes (decode op b2 b3) =
    if opcodeLength .faulting op = 3 then wordBytes (mkWord b3 b2) else [b2].take (opcodeLength .faulting op - 1))
    (fun n hn => ?_) op
  interval_cases n <;> rfl

theorem opcodeLength_cases (mode : UndocMode) (op : Byte) :
    opcodeLength mode op = 1 ∨ opcodeLength mode op = 2 ∨ opcodeLength mode op = 3 := by
  unfold opcodeLength
  split_ifs <;> cases mode <;> simp

/-- Encoding what was decoded gives the bytes taken. -/
theorem encode_decode (op b2 b3 : Byte) :
    encode (decode op b2 b3) = [op, b2, b3].take (opcodeLength .faulting op) := by
  rw [encode, opcode_decode, operandBytes_decode, wordBytes_mkWord]
  obtain h | h | h := opcodeLength_cases .faulting op <;> rw [h] <;> rfl

/-- The opcode byte followed by the operand bytes, as many as there are, decodes to the instruction. -/
theorem decode_opcode {i : Instr} (hwf : i.wellFormed = true) {b2 b3 : Byte}
    (h2 : ∀ v, (operandBytes i)[0]? = some v → b2 = v) (h3 : ∀ v, (operandBytes i)[1]? = some v → b3 = v) :
    decode (opcode i) b2 b3 = i := by
  have word {v : Word} (hv : operandBytes i = wordBytes v) : mkWord b3 b2 = v := by
    rw [h2 (loByte v) (by rw [hv]; rfl), h3 (hiByte v) (by rw [hv]; rfl), mkWord_hiByte_loByte]
  have byte {v : Byte} (hv : operandBytes i = [v]) : b2 = v := h2 v (by rw [hv]; rfl)
  -- Unfolding `opcode` first takes the operand out of the opcode byte, on which the decoder then computes.
  cases i
  case movRR dst src => cases dst <;> cases src <;> rfl
  case mviR dst d8 => obtain rfl := byte rfl; simp only [opcode]; cases dst <;> rfl
  case lxi p v => obtain rfl := word rfl; simp only [opcode]; cases p <;> rfl
  case movRM r | movMR r | addR r | adcR r | subR r | sbbR r | anaR r | xraR r | oraR r | cmpR r | inrR r | dcrR r =>
    cases r <;> rfl
  case inx p | dcx p | dad p => cases p <;> rfl
  case ldax p | stax p =>
    cases p
    case b | d => rfl
    case h | sp => exact absurd hwf nofun
  case pushRp p | popRp p =>
    cases p
    case b | d | h => rfl
    case sp => exact absurd hwf nofun
  case rst n =>
    match n with
    | 0 | 1 | 2 | 3 | 4 | 5 | 6 | 7 => rfl
  case unassignedNop x =>
    match x with
    | 0 => exact absurd hwf nofun
    | 1 | 2 | 3 | 4 | 5 | 6 | 7 => rfl
  case unassignedCall x =>
    match x with
    | 0 => exact absurd hwf nofun
    | 1 | 2 | 3 => rfl
  case mviM v | adi v | aci v | sui v | sbi v | ani v | xri v | ori v | cpi v | inp v | out v =>
    obtain rfl := byte rfl; simp only [opcode]; rfl
  case lda v | sta v | lhld v | shld v | jmp v | jnz v | jz v | jnc v | jc v | jpo v | jpe v | jp v | jm v | call v | cnz v
      | cz v | cnc v | cc v | cpo v | cpe v | cp v | cm v =>
    obtain rfl := word rfl; simp only [opcode]; rfl
  all_goals rfl

/-- Settles O2: a decoded instruction is well-formed, and `encode_decode` gives its bytes. -/
theorem encodeDecodeRoundTrip : Obligations.EncodeDecodeRoundTrip :=
  fun op b2 b3 => ⟨wellFormed_decode op b2 b3, encode_decode op b2 b3⟩

/-- A well-formed instruction encodes to as many bytes as its opcode byte says (R88). -/
theorem length_encode {i : Instr} (hwf : i.wellFormed = true) :
    (encode i).length = opcodeLength .faulting (opcode i) := by
  let b2 := (operandBytes i).getD 0 0
  let b3 := (operandBytes i).getD 1 0
  have hdec : decode (opcode i) b2 b3 = i :=
    decode_opcode hwf (fun v hv => by simp [b2, hv]) (fun v hv => by simp [b3, hv])
  have henc := congrArg List.length (encode_decode (opcode i) b2 b3)
  rw [hdec] at henc
  obtain h | h | h := opcodeLength_cases .faulting (opcode i) <;> rw [h] at henc ⊢ <;> exact henc

/-- Settles O1: by `length_encode` the opcode byte says how many operand bytes `decodeBytes` takes, and by `decode_opcode`
they decode to the instruction. -/
theorem decodeEncodeRoundTrip : Obligations.DecodeEncodeRoundTrip := by
  intro i rest hwf
  have hlen := length_encode hwf
  match h : operandBytes i with
  | [] =>
    rw [encode, h] at hlen ⊢
    exact (decodeBytes_one hlen.symm rest).trans (by rw [decode_opcode hwf (by simp [h]) (by simp [h])])
  | [b2] =>
    rw [encode, h] at hlen ⊢
    exact (decodeBytes_two hlen.symm b2 rest).trans (by rw [decode_opcode hwf (by simp [h]) (by simp [h])])
  | [b2, b3] =>
    rw [encode, h] at hlen ⊢
    exact (decodeBytes_three hlen.symm b2 b3 rest).trans (by rw [decode_opcode hwf (by simp [h]) (by simp [h])])
  | _ :: _ :: _ :: _ =>
    rw [encode, h] at hlen
    obtain hop | hop | hop := opcodeLength_cases .faulting (opcode i) <;> simp [hop] at hlen

/-- Settles O4: the decoder computes on each word. -/
theorem familyWordsDecode : Obligations.FamilyWordsDecode :=
  ⟨rfl, rfl, rfl, rfl, rfl, rfl, rfl, rfl⟩

end Sys2Proof
end

section
/-! The step function (46_execution_engine.md R291, R295; 60_exceptions.md): at a byte that raises a fault the step only
stops the machine, and at any other it is the meaning of the instruction fetched. -/

namespace Sys2Proof.Machine

variable {s : State}

theorem step_of_not_stubbed (hr : s.run = .running) (hu : s.readMem s.pc ∉ s.config.unimpl) :
    step s = exec s.fetchInstr s := by
  have hf : s.fetchesUnimplemented = false := by simpa [State.fetchesUnimplemented, State.fetchOpcode] using hu
  simp only [step, hr, hf]

theorem step_of_not_faults (hr : s.run = .running) (hf : ¬ s.faultsAtDecode) : step s = exec s.fetchInstr s :=
  step_of_not_stubbed hr fun hu => hf (.inl hu)

theorem step_of_faults (hr : s.run = .running) (hf : s.faultsAtDecode) : ∃ r, step s = .next (s.stop r) := by
  obtain ⟨-, hstep⟩ | ⟨-, -, -, hstep⟩ | ⟨hnf, -⟩ | ⟨hnf, -⟩ := step_cases hr
  · exact ⟨_, hstep⟩
  · exact ⟨_, hstep⟩
  · exact absurd hf hnf
  · exact absurd hf hnf

theorem running_of_step {t : State} (ht : step s = .next t) : s.run = .running := by
  cases hr : s.run with
  | running => rfl
  | halted => exact absurd ((step_of_halted hr).symm.trans ht) nofun

/-- Where the step reports no fault, the instruction fetched is assigned or executes as the aliased one (R95). -/
theorem unassignedByte_of_not_faults (hf : ¬ s.faultsAtDecode) :
    s.fetchInstr.unassignedByte = none ∨ s.config.undocMode = .aliased := by
  cases hm : s.config.undocMode with
  | aliased => exact .inr rfl
  | faulting =>
    left
    rw [State.fetchInstr, decode_unassignedByte]
    exact if_neg fun ha => hf (.inr ⟨ha, hm⟩)

end Sys2Proof.Machine

namespace Sys2Proof

open Machine

/-- Settles O5: the three bytes are the ones `fetchInstr` decodes. -/
theorem stepRunsDecodedInstruction : Obligations.StepRunsDecodedInstruction :=
  fun _ hr hu => step_of_not_stubbed hr hu

/-- Settles O6: the bytes at PC are the encoding's, so by `decode_opcode` the instruction fetched is the one encoded. -/
theorem stepRunsInstructionInMemory : Obligations.StepRunsInstructionInMemory := by
  intro i s hwf hr hu hmem
  have hop : s.readMem s.pc = opcode i := by
    have h := hmem 0 (opcode i) rfl
    rwa [BitVec.add_zero] at h
  have hfetch : s.fetchInstr = i := by
    rw [State.fetchInstr, State.fetchOpcode, hop]
    exact decode_opcode hwf (fun v hv => hmem 1 v hv) (fun v hv => hmem 2 v hv)
  rw [step_of_not_stubbed hr (hop ▸ hu), hfetch]

/-- Settles O7: the step of a Halted state is the fault, which is no next state. -/
theorem haltedMachineTakesNoStep : Obligations.HaltedMachineTakesNoStep :=
  fun _ hh => ⟨step_of_halted hh, fun _ ht => absurd ((step_of_halted hh).symm.trans ht) nofun⟩

/-- Settles O10: the four ways of `step_cases`; in each, the clauses about the others contradict it. -/
theorem faultsAreReportedExactlyAndPrecisely : Obligations.FaultsAreReportedExactlyAndPrecisely := by
  intro s hr
  obtain ⟨hu, hstep⟩ | ⟨hu, ha, hm, hstep⟩ | ⟨hnf, hbyte, -, -, hstep⟩ | ⟨hnf, hbyte, -, -, t, hstep, hrun, hres⟩ :=
    step_cases hr
  case inl =>
    have hf : s.faultsAtDecode := .inl hu
    exact ⟨_, hstep, fun _ => rfl, fun h => absurd hu h,
      fun _ => ⟨rfl, rfl, rfl, rfl, rfl, rfl, rfl, rfl, rfl, rfl⟩, fun h => absurd hf h, fun h => absurd hf h⟩
  case inr.inl =>
    have hf : s.faultsAtDecode := .inr ⟨ha, hm⟩
    exact ⟨_, hstep, fun h => absurd h hu, fun _ _ _ => rfl,
      fun _ => ⟨rfl, rfl, rfl, rfl, rfl, rfl, rfl, rfl, rfl, rfl⟩, fun h => absurd hf h, fun h => absurd hf h⟩
  case inr.inr.inl =>
    exact ⟨_, hstep, fun h => absurd (.inl h) hnf, fun _ ha hm => absurd (.inr ⟨ha, hm⟩) hnf, fun h => absurd h hnf,
      fun _ h => absurd hbyte h, fun _ _ => ⟨rfl, rfl⟩⟩
  case inr.inr.inr =>
    exact ⟨t, hstep, fun h => absurd (.inl h) hnf, fun _ ha hm => absurd (.inr ⟨ha, hm⟩) hnf, fun h => absurd h hnf,
      fun _ _ => ⟨hrun, hres⟩, fun _ h => absurd h hbyte⟩

end Sys2Proof
end

section
/-! What every instruction does to memory (20_memory.md section 5): exactly the stores listed in `storedBytes`, in their
order. That other bytes are kept, that the stored ones are there, and that the canonical form is kept all follow. -/

namespace Sys2Proof.Machine

namespace Memory

/-- Memory after a list of stores, each an address and a byte. -/
def writeAll (m : Memory) (cells : List (Word × Byte)) : Memory :=
  cells.foldl (fun m cell => write m cell.1.toNat cell.2) m

theorem writeAll_cons (m : Memory) (cell : Word × Byte) (cells : List (Word × Byte)) :
    writeAll m (cell :: cells) = writeAll (write m cell.1.toNat cell.2) cells := rfl

theorem writeAll_wf {m : Memory} (hm : m.wf = true) (cells : List (Word × Byte)) : (writeAll m cells).wf = true := by
  induction cells generalizing m with
  | nil => exact hm
  | cons cell cells ih => exact ih (write_wf cell.2 cell.1.isLt hm)

theorem read_writeAll_of_notMem (m : Memory) {cells : List (Word × Byte)} {a : Word} (ha : a ∉ cells.map Prod.fst) :
    read (writeAll m cells) a.toNat = read m a.toNat := by
  induction cells generalizing m with
  | nil => rfl
  | cons cell cells ih =>
    rw [List.map_cons, List.mem_cons, not_or] at ha
    rw [writeAll_cons, ih _ ha.2, read_write_ne _ _ fun h => ha.1 (BitVec.eq_of_toNat_eq h)]

/-- A byte stored at an address that no other store of the list has is there afterwards. -/
theorem read_writeAll_of_mem (m : Memory) {cells : List (Word × Byte)} (hnd : (cells.map Prod.fst).Nodup) {a : Word}
    {v : Byte} (h : (a, v) ∈ cells) : read (writeAll m cells) a.toNat = v := by
  induction cells generalizing m with
  | nil => cases h
  | cons cell cells ih =>
    rw [List.map_cons, List.nodup_cons] at hnd
    obtain rfl | h := List.mem_cons.mp h
    · rw [writeAll_cons, read_writeAll_of_notMem _ hnd.1, read_write_same]
    · exact ih _ hnd.2 h

end Memory

theorem add8_one_res (v : Byte) : (add8 v 1 false).res = v + 1 := by
  apply BitVec.eq_of_toNat_eq
  simp [add8]

theorem sub8_one_res (polarity : AcSubPolarity) (v : Byte) : (sub8 polarity v 1 false).res = v - 1 := by
  obtain ⟨hres, -⟩ := (sub8_isDifference polarity v 1 false).decrement
  apply BitVec.eq_of_toNat_eq
  rw [hres, BitVec.toNat_sub]
  simp
  omega

@[simp] theorem State.loByte_hl (s : State) : loByte s.hl = s.reg .l := loByte_mkWord _ _

@[simp] theorem State.hiByte_hl (s : State) : hiByte s.hl = s.reg .h := hiByte_mkWord _ _

/-- What both the fault entry and the aliased instruction keep, an unassigned byte keeps in either mode (R95). -/
theorem State.unassigned_keeps {α : Type} (f : State → α) {s alt : State} {op : Byte}
    (hfault : f (s.raiseUnknown op) = f s) (halias : f alt = f s) : f (s.unassigned op alt) = f s := by
  cases hm : s.config.undocMode with
  | faulting => rw [unassigned_faulting hm, hfault]
  | aliased => rw [unassigned_aliased hm, halias]

theorem State.callIf_mem (s : State) (cond : Cond) (a16 : Word) :
    (s.callIf cond a16).mem = s.mem.writeAll
      (if s.flags.holds cond then [(s.sp - 1, hiByte (s.pc + 3)), (s.sp - 2, loByte (s.pc + 3))] else []) := by
  unfold State.callIf
  split <;> rfl

/-- The memory after an instruction is the memory before it with the bytes of `storedBytes` stored. -/
theorem exec_mem (i : Instr) (s : State) : ∃ t, exec i s = .next t ∧ t.mem = s.mem.writeAll (storedBytes i s) := by
  cases i
  case lxi p v => exact ⟨_, rfl, s.setPair_mem p v⟩
  case inx p | dcx p => exact ⟨_, rfl, s.setPair_mem p _⟩
  case popRp p => exact ⟨_, rfl, s.pop16.setPair_mem p _⟩
  case inrM => exact ⟨_, rfl, by rw [storedBytes, ← add8_one_res]; rfl⟩
  case dcrM => exact ⟨_, rfl, by rw [storedBytes, ← sub8_one_res s.config.acSubPolarity]; rfl⟩
  case shld a => exact ⟨_, rfl, by rw [storedBytes, ← s.loByte_hl, ← s.hiByte_hl]; rfl⟩
  case xthl => exact ⟨_, rfl, by rw [storedBytes, ← s.loByte_hl, ← s.hiByte_hl]; rfl⟩
  case jnz a16 | jz a16 | jnc a16 | jc a16 | jpo a16 | jpe a16 | jp a16 | jm a16 => exact ⟨_, rfl, s.jumpIf_mem _ a16⟩
  case rnz | rz | rnc | rc | rpo | rpe | rp | rm => exact ⟨_, rfl, s.returnIf_mem _⟩
  case cnz a16 | cz a16 | cnc a16 | cc a16 | cpo a16 | cpe a16 | cp a16 | cm a16 =>
    exact ⟨_, rfl, s.callIf_mem _ a16⟩
  case unassignedNop | unassignedJmp | unassignedRet => exact ⟨_, rfl, State.unassigned_keeps State.mem rfl rfl⟩
  case unassignedCall x =>
    refine ⟨_, rfl, ?_⟩
    cases hm : s.config.undocMode with
    | faulting => rw [unassigned_faulting hm, storedBytes, hm]; rfl
    | aliased => rw [unassigned_aliased hm, storedBytes, hm]; rfl
  all_goals exact ⟨_, rfl, rfl⟩

/-- No instruction stores to one address twice. -/
theorem storedAddresses_nodup (i : Instr) (s : State) : (storedAddresses i s).Nodup := by
  have pushed : [s.sp - 1, s.sp - 2].Nodup := by simp
  have word (a : Word) : [a, a + 1].Nodup := by simp
  have callIf (cond : Cond) (hi lo : Byte) :
      ((if s.flags.holds cond then [(s.sp - 1, hi), (s.sp - 2, lo)] else []).map Prod.fst).Nodup := by
    split
    · exact pushed
    · exact List.nodup_nil
  cases i
  case shld a => exact word a
  case xthl => exact word s.sp
  case pushRp | pushPsw | call | rst => exact pushed
  case cnz | cz | cnc | cc | cpo | cpe | cp | cm => exact callIf _ _ _
  case unassignedCall x =>
    rw [storedAddresses, storedBytes]
    cases s.config.undocMode with
    | faulting => exact List.nodup_nil
    | aliased => exact pushed
  case movMR | mviM | inrM | dcrM | sta | stax => exact List.nodup_singleton _
  all_goals exact List.nodup_nil

/-- After an instruction the bytes it stores are in memory, and every other byte is as before. -/
theorem exec_stores (i : Instr) (s : State) :
    ∃ t, exec i s = .next t ∧ HoldsBytes (storedBytes i s) t ∧ KeepsMemBut (storedAddresses i s) s t := by
  obtain ⟨t, ht, hmem⟩ := exec_mem i s
  refine ⟨t, ht, fun a v h => ?_, fun a h => ?_⟩
  · rw [State.readMem, hmem]
    exact Memory.read_writeAll_of_mem s.mem (storedAddresses_nodup i s) h
  · rw [State.readMem, hmem]
    exact Memory.read_writeAll_of_notMem s.mem h

end Sys2Proof.Machine

namespace Sys2Proof

open Machine

/-- Settles O55: memory changes by the stores of `storedBytes` only. -/
theorem memoryChangesOnlyWhereStored : Obligations.MemoryChangesOnlyWhereStored := by
  intro i s
  obtain ⟨t, ht, -, hkept⟩ := exec_stores i s
  exact ⟨t, ht, hkept⟩

/-- Settles O12: the three bytes the next step decodes are bytes of the memory the instruction leaves, and of every byte of
that memory `exec_stores` says whether it is a stored one or the one before. -/
theorem storeIsSeenByTheNextFetch : Obligations.StoreIsSeenByTheNextFetch := by
  intro s hr hf i seen
  obtain ⟨t, ht, hholds, hkept⟩ := exec_stores i s
  have hseen (a : Word) : seen a (t.readMem a) := ⟨fun v h => hholds a v h, hkept a⟩
  exact ⟨t, (step_of_not_faults hr hf).trans ht, hholds, hseen _, hseen _, hseen _, step_of_not_stubbed⟩

/-- Settles O14. Memory stays canonical because an instruction changes it by byte writes only. The recorded result agrees
because a fault leaves the byte at PC that raised it, HLT leaves its own byte behind PC, and any other instruction
leaves the machine running with the result it had, `Continued`. -/
theorem stepKeepsInvariant : Obligations.StepKeepsInvariant := by
  intro s t hinv ht
  have hwf := hinv.1
  have hr := running_of_step ht
  obtain ⟨hu, hstep⟩ | ⟨-, ha, hm, hstep⟩ | ⟨-, hbyte, -, -, hstep⟩ | ⟨-, -, -, hexec, _, hstep, hrun, hres⟩ :=
    step_cases hr
  · obtain rfl := Host.Outcome.next.inj (hstep.symm.trans ht)
    exact ⟨hwf, rfl, rfl, rfl, hu⟩
  · obtain rfl := Host.Outcome.next.inj (hstep.symm.trans ht)
    exact ⟨hwf, rfl, rfl, rfl, ha, hm⟩
  · obtain rfl := Host.Outcome.next.inj (hstep.symm.trans ht)
    have hpc : s.pc + 1 - 1 = s.pc := BitVec.add_sub_cancel s.pc 1
    exact ⟨hwf, rfl, (congrArg s.readMem hpc).trans hbyte⟩
  · obtain rfl := Host.Outcome.next.inj (hstep.symm.trans ht)
    obtain ⟨u, hu, hmem⟩ := exec_mem s.fetchInstr s
    obtain rfl := Host.Outcome.next.inj (hstep.symm.trans (hexec.trans hu))
    refine ⟨hmem ▸ Memory.writeAll_wf hwf _, ?_⟩
    rw [State.resultAgrees, hres, hinv.result_of_running hr]
    exact hrun

end Sys2Proof
end

section
/-! PC (10_state.md section 3): an instruction that makes a transfer ends at its target, and any other ends past its
encoding, whose length is the one of its opcode byte. -/

namespace Sys2Proof

theorem length_encode_decode (op b2 b3 : Byte) : (encode (decode op b2 b3)).length = opcodeLength .faulting op := by
  rw [length_encode (wellFormed_decode op b2 b3), opcode_decode]

/-- The mode matters to the length of the bytes that execute as JMP or CALL only (R88). -/
theorem opcodeLength_mode (mode : UndocMode) {op b2 b3 : Byte} (hjmp : decode op b2 b3 ≠ .unassignedJmp)
    (hcall : ∀ x, decode op b2 b3 ≠ .unassignedCall x) : opcodeLength mode op = opcodeLength .faulting op := by
  have hcb : op ≠ 0xCB := fun h => hjmp (by rw [h]; rfl)
  have hdd : op ≠ 0xDD := fun h => hcall 1 (by rw [h]; rfl)
  have hed : op ≠ 0xED := fun h => hcall 2 (by rw [h]; rfl)
  have hfd : op ≠ 0xFD := fun h => hcall 3 (by rw [h]; rfl)
  simp only [opcodeLength, beq_iff_eq, Bool.or_eq_true, hcb, hdd, hed, hfd, or_self, if_false]

end Sys2Proof

namespace Sys2Proof.Machine

namespace State

variable (s : State) (cond : Cond) (a16 : Word)

theorem jumpIf_pc : (s.jumpIf cond a16).pc = (if s.flags.holds cond then some a16 else none).getD (s.pc + 3) := by
  unfold jumpIf
  split <;> rfl

theorem callIf_pc : (s.callIf cond a16).pc = (if s.flags.holds cond then some a16 else none).getD (s.pc + 3) := by
  unfold callIf
  split <;> rfl

theorem returnIf_pc : (s.returnIf cond).pc = (if s.flags.holds cond then some s.top16 else none).getD (s.pc + 1) := by
  unfold returnIf
  split <;> rfl

end State

/-- Where PC ends, unless the instruction is an unassigned one in fault mode. -/
theorem exec_pc (i : Instr) (s : State) : ∃ t, exec i s = .next t ∧
    (i.unassignedByte = none ∨ s.config.undocMode = .aliased →
      t.pc = (transferTarget i s).getD (s.pc + BitVec.ofNat 16 (encode i).length)) := by
  cases i
  case lxi p v => exact ⟨_, rfl, fun _ => congrArg (· + 3) (s.setPair_pc p v)⟩
  case inx p | dcx p => exact ⟨_, rfl, fun _ => congrArg (· + 1) (s.setPair_pc p _)⟩
  case popRp p => exact ⟨_, rfl, fun _ => congrArg (· + 1) (s.pop16.setPair_pc p _)⟩
  case jnz a16 | jz a16 | jnc a16 | jc a16 | jpo a16 | jpe a16 | jp a16 | jm a16 =>
    exact ⟨_, rfl, fun _ => s.jumpIf_pc _ a16⟩
  case cnz a16 | cz a16 | cnc a16 | cc a16 | cpo a16 | cpe a16 | cp a16 | cm a16 =>
    exact ⟨_, rfl, fun _ => s.callIf_pc _ a16⟩
  case rnz | rz | rnc | rc | rpo | rpe | rp | rm => exact ⟨_, rfl, fun _ => s.returnIf_pc _⟩
  case unassignedNop => exact ⟨_, rfl, fun h => by rw [unassigned_aliased (h.resolve_left nofun)]; rfl⟩
  case unassignedJmp | unassignedRet | unassignedCall =>
    refine ⟨_, rfl, fun h => ?_⟩
    have ha : s.config.undocMode = .aliased := h.resolve_left nofun
    rw [unassigned_aliased ha, transferTarget, ha]
    rfl
  all_goals exact ⟨_, rfl, fun _ => rfl⟩

end Sys2Proof.Machine

namespace Sys2Proof

open Machine

/-- Where no transfer is made, the opcode byte has the length of the encoding in either mode. -/
theorem opcodeLength_of_no_transfer {s : State} (hnone : transferTarget s.fetchInstr s = none) :
    opcodeLength s.config.undocMode (s.readMem s.pc) = (encode s.fetchInstr).length := by
  rw [State.fetchInstr, length_encode_decode]
  cases hm : s.config.undocMode with
  | faulting => rfl
  | aliased =>
    refine opcodeLength_mode _ (b2 := s.operand2) (b3 := s.operand3) (fun h => ?_) fun x h => ?_
    all_goals
      change s.fetchInstr = _ at h
      simp [h, transferTarget, hm] at hnone

/-- Settles O11: a fault only stops the machine, and otherwise `exec_pc` says where PC ends. -/
theorem pcAdvancesByLengthOrTransfers : Obligations.PcAdvancesByLengthOrTransfers := by
  intro s hr
  by_cases hf : s.faultsAtDecode
  · obtain ⟨r, hstep⟩ := step_of_faults hr hf
    exact ⟨_, hstep, fun _ => rfl, fun h => absurd hf h, fun h => absurd hf h⟩
  · obtain ⟨t, ht, hpc⟩ := exec_pc s.fetchInstr s
    have hpc := hpc (unassignedByte_of_not_faults hf)
    refine ⟨t, (step_of_not_faults hr hf).trans ht, fun h => absurd h hf, fun _ target htarget => ?_, fun _ hnone => ?_⟩
    · rw [hpc, htarget, Option.getD_some]
    · rw [hpc, hnone, Option.getD_none, opcodeLength_of_no_transfer hnone]

end Sys2Proof
end

section
/-! SP (10_state.md section 4) and the flags (40_alu_flag_rules.md section 9): an instruction that the tables do not name
keeps them. -/

namespace Sys2Proof.Machine

theorem State.setPair_sp_of_ne (s : State) {p : RegPair} (hp : p ≠ .sp) (v : Word) : (s.setPair p v).sp = s.sp := by
  cases p
  case sp => exact absurd rfl hp
  all_goals rfl

theorem exec_sp (i : Instr) (s : State) : ∃ t, exec i s = .next t ∧ (writesSp i = false → t.sp = s.sp) := by
  cases i
  case lxi p v => exact ⟨_, rfl, fun h => s.setPair_sp_of_ne (ne_of_beq_false h) v⟩
  case inx p | dcx p => exact ⟨_, rfl, fun h => s.setPair_sp_of_ne (ne_of_beq_false h) _⟩
  case jnz a16 | jz a16 | jnc a16 | jc a16 | jpo a16 | jpe a16 | jp a16 | jm a16 =>
    exact ⟨_, rfl, fun _ => s.jumpIf_sp _ a16⟩
  case unassignedNop | unassignedJmp => exact ⟨_, rfl, fun _ => State.unassigned_keeps State.sp rfl rfl⟩
  case sphl | pushRp | pushPsw | popRp | popPsw | call | cnz | cz | cnc | cc | cpo | cpe | cp | cm | rst | ret | rnz | rz | rnc
      | rc | rpo | rpe | rp | rm | unassignedRet | unassignedCall =>
    exact ⟨_, rfl, nofun⟩
  all_goals exact ⟨_, rfl, fun _ => rfl⟩

/-- The flags a row of the flag table R119 does not mark are unchanged. -/
def KeepsFlagsBut (written : Flags) (s t : State) : Prop :=
  (written.z = false → t.flags.z = s.flags.z) ∧ (written.s = false → t.flags.s = s.flags.s) ∧
  (written.p = false → t.flags.p = s.flags.p) ∧ (written.cy = false → t.flags.cy = s.flags.cy) ∧
  (written.ac = false → t.flags.ac = s.flags.ac)

theorem keepsFlagsBut_of_eq {written : Flags} {s t : State} (h : t.flags = s.flags) : KeepsFlagsBut written s t := by
  rw [KeepsFlagsBut, h]
  exact ⟨fun _ => rfl, fun _ => rfl, fun _ => rfl, fun _ => rfl, fun _ => rfl⟩

theorem exec_flags (i : Instr) (s : State) : ∃ t, exec i s = .next t ∧ KeepsFlagsBut (writesFlags i) s t := by
  cases i
  -- The rows of the table: all five flags, all but CY, CY alone; after them the instructions that write none.
  case addR | addM | adi | adcR | adcM | aci | subR | subM | sui | sbbR | sbbM | sbi | cmpR | cmpM | cpi | anaR | anaM | ani
      | xraR | xraM | xri | oraR | oraM | ori | daa | popPsw =>
    exact ⟨_, rfl, nofun, nofun, nofun, nofun, nofun⟩
  case inrR | inrM | dcrR | dcrM => exact ⟨_, rfl, nofun, nofun, nofun, fun _ => rfl, nofun⟩
  case dad | rlc | rrc | ral | rar | stc | cmc =>
    exact ⟨_, rfl, fun _ => rfl, fun _ => rfl, fun _ => rfl, nofun, fun _ => rfl⟩
  case lxi p v => exact ⟨_, rfl, keepsFlagsBut_of_eq (s.setPair_flags p v)⟩
  case inx p | dcx p => exact ⟨_, rfl, keepsFlagsBut_of_eq (s.setPair_flags p _)⟩
  case popRp p => exact ⟨_, rfl, keepsFlagsBut_of_eq (s.pop16.setPair_flags p _)⟩
  case jnz a16 | jz a16 | jnc a16 | jc a16 | jpo a16 | jpe a16 | jp a16 | jm a16 =>
    exact ⟨_, rfl, keepsFlagsBut_of_eq (s.jumpIf_flags _ a16)⟩
  case cnz a16 | cz a16 | cnc a16 | cc a16 | cpo a16 | cpe a16 | cp a16 | cm a16 =>
    exact ⟨_, rfl, keepsFlagsBut_of_eq (s.callIf_flags _ a16)⟩
  case rnz | rz | rnc | rc | rpo | rpe | rp | rm => exact ⟨_, rfl, keepsFlagsBut_of_eq (s.returnIf_flags _)⟩
  case unassignedNop | unassignedJmp | unassignedRet | unassignedCall =>
    exact ⟨_, rfl, keepsFlagsBut_of_eq (State.unassigned_keeps State.flags rfl rfl)⟩
  all_goals exact ⟨_, rfl, keepsFlagsBut_of_eq rfl⟩

end Sys2Proof.Machine

namespace Sys2Proof

open Machine

/-- Settles O58: `exec_sp` goes through the constructors the list of section 4 does not name. -/
theorem stackPointerWrittenOnlyByStackInstructions : Obligations.StackPointerWrittenOnlyByStackInstructions := exec_sp

/-- Settles O54: `exec_flags` goes through the rows of the flag table. -/
theorem flagsWrittenOnlyAsTabled : Obligations.FlagsWrittenOnlyAsTabled := exec_flags

end Sys2Proof
end

section
/-! The trace, the IN count and the parameters (10_state.md section 8): an instruction appends to the trace what OUT emits
and commutes with putting another trace before it; it writes neither the parameters nor, unless it is IN, the count. -/

namespace Sys2Proof.Machine

/-- The state with another trace. -/
def State.withTrace (s : State) (trace : List (Byte × Byte)) : State := { s with ioOut := trace }

/-- What an instruction appends to the trace (R271). -/
def emitted : Instr → State → List (Byte × Byte)
  | .out port, s => [(port, s.reg .a)]
  | _, _ => []

theorem emitted_of_not_out {i : Instr} (h : ∀ port, i ≠ .out port) (s : State) : emitted i s = [] := by
  cases i
  case out port => exact absurd rfl (h port)
  all_goals rfl

namespace State

variable (s : State) (trace : List (Byte × Byte))

theorem jumpIf_withTrace (cond : Cond) (a16 : Word) :
    (s.withTrace trace).jumpIf cond a16 = (s.jumpIf cond a16).withTrace trace :=
  (apply_ite (withTrace · trace) (s.flags.holds cond) (s.setPc a16) (s.advance 3)).symm

theorem callIf_withTrace (cond : Cond) (a16 : Word) :
    (s.withTrace trace).callIf cond a16 = (s.callIf cond a16).withTrace trace :=
  (apply_ite (withTrace · trace) (s.flags.holds cond) (s.callFrom 3 a16) (s.advance 3)).symm

theorem returnIf_withTrace (cond : Cond) : (s.withTrace trace).returnIf cond = (s.returnIf cond).withTrace trace :=
  (apply_ite (withTrace · trace) (s.flags.holds cond) s.popPc (s.advance 1)).symm

theorem unassigned_withTrace (op : Byte) (alt : State) :
    (s.withTrace trace).unassigned op (alt.withTrace trace) = (s.unassigned op alt).withTrace trace := by
  cases h : s.config.undocMode with
  | faulting => rw [unassigned_faulting h, unassigned_faulting (s := s.withTrace trace) h]; rfl
  | aliased => rw [unassigned_aliased h, unassigned_aliased (s := s.withTrace trace) h]

end State

/-- What an instruction does to the trace it does to any other, and all else it does whatever the trace is. -/
theorem exec_withTrace (i : Instr) (s : State) : ∃ t, exec i s = .next t ∧
    ∀ trace, exec i (s.withTrace trace) = .next (t.withTrace (trace ++ emitted i s)) := by
  by_cases hout : ∀ port, i ≠ .out port
  case neg =>
    obtain ⟨port, rfl⟩ := not_forall_not.mp hout
    exact ⟨_, rfl, fun _ => rfl⟩
  simp only [emitted_of_not_out hout, List.append_nil]
  cases i
  case out port => exact absurd rfl (hout port)
  case lxi p _ | inx p | dcx p | popRp p => cases p <;> exact ⟨_, rfl, fun _ => rfl⟩
  case jnz a16 | jz a16 | jnc a16 | jc a16 | jpo a16 | jpe a16 | jp a16 | jm a16 =>
    exact ⟨_, rfl, fun l => congrArg _ (s.jumpIf_withTrace l _ a16)⟩
  case cnz a16 | cz a16 | cnc a16 | cc a16 | cpo a16 | cpe a16 | cp a16 | cm a16 =>
    exact ⟨_, rfl, fun l => congrArg _ (s.callIf_withTrace l _ a16)⟩
  case rnz | rz | rnc | rc | rpo | rpe | rp | rm => exact ⟨_, rfl, fun l => congrArg _ (s.returnIf_withTrace l _)⟩
  case unassignedNop => exact ⟨_, rfl, fun l => congrArg _ (s.unassigned_withTrace l _ (s.advance 1))⟩
  case unassignedJmp => exact ⟨_, rfl, fun l => congrArg _ (s.unassigned_withTrace l _ (s.setPc s.operand16))⟩
  case unassignedRet => exact ⟨_, rfl, fun l => congrArg _ (s.unassigned_withTrace l _ s.popPc)⟩
  case unassignedCall => exact ⟨_, rfl, fun l => congrArg _ (s.unassigned_withTrace l _ (s.callFrom 3 s.operand16))⟩
  all_goals exact ⟨_, rfl, fun _ => rfl⟩

theorem exec_config_inCount (i : Instr) (s : State) : ∃ t, exec i s = .next t ∧
    t.config = s.config ∧ ((∀ port, i ≠ .inp port) → t.inCount = s.inCount) := by
  cases i
  case inp port => exact ⟨_, rfl, rfl, fun h => absurd rfl (h port)⟩
  case lxi p _ | inx p | dcx p | popRp p => cases p <;> exact ⟨_, rfl, rfl, fun _ => rfl⟩
  case jnz a16 | jz a16 | jnc a16 | jc a16 | jpo a16 | jpe a16 | jp a16 | jm a16 =>
    exact ⟨_, rfl, s.jumpIf_config _ a16, fun _ => s.jumpIf_inCount _ a16⟩
  case cnz a16 | cz a16 | cnc a16 | cc a16 | cpo a16 | cpe a16 | cp a16 | cm a16 =>
    exact ⟨_, rfl, s.callIf_config _ a16, fun _ => s.callIf_inCount _ a16⟩
  case rnz | rz | rnc | rc | rpo | rpe | rp | rm => exact ⟨_, rfl, s.returnIf_config _, fun _ => s.returnIf_inCount _⟩
  case unassignedNop | unassignedJmp | unassignedRet | unassignedCall =>
    exact ⟨_, rfl, State.unassigned_keeps State.config rfl rfl, fun _ => State.unassigned_keeps State.inCount rfl rfl⟩
  all_goals exact ⟨_, rfl, rfl, fun _ => rfl⟩

end Sys2Proof.Machine

namespace Sys2Proof

open Machine

/-- Settles O57: with `exec_withTrace`, that the trace only grows is the case of the trace the state already has. -/
theorem traceAndCounter : Obligations.TraceAndCounter := by
  intro i s earlier
  obtain ⟨t, ht, htrace⟩ := exec_withTrace i s
  obtain ⟨t', ht', hconfig, hcount⟩ := exec_config_inCount i s
  obtain rfl : t = t' := Host.Outcome.next.inj (ht.symm.trans ht')
  have hself : t = t.withTrace (s.ioOut ++ emitted i s) := Host.Outcome.next.inj (ht.symm.trans (htrace s.ioOut))
  exact ⟨t, emitted i s, ht, congrArg State.ioOut hself, hconfig, fun h => emitted_of_not_out h s, hcount, htrace earlier⟩

end Sys2Proof
end

section
/-! Memory as data (10_state.md section 7; log 18), the state after reset and the state construction gives
(70_reset_and_hazards.md section 1). -/

namespace Sys2Proof.Machine.Memory

@[simp] theorem read_cons_same (k : Nat) (v : Byte) (m : Memory) : read ((k, v) :: m) k = v := if_pos rfl

theorem read_cons_ne {k a : Nat} (h : k ≠ a) (v : Byte) (m : Memory) : read ((k, v) :: m) a = read m a := if_neg h

/-- A canonical memory that lists nothing up to the address of another's first entry differs from it there. -/
theorem read_head_ne {low low' k : Nat} {v : Byte} {m n : Memory} (hm : wfFrom low ((k, v) :: m) = true)
    (hn : wfFrom low' n = true) (hlt : k < low') : read ((k, v) :: m) k ≠ read n k := by
  obtain ⟨-, -, hv, -⟩ := (wfFrom_cons ..).mp hm
  rwa [read_cons_same, read_of_lt hlt hn]

/-- Canonical memories that read the same are equal: the first entries have one address, for else the memory with the
lower one reads otherwise there, and so one byte; and the rests read the same. -/
theorem eq_of_wfFrom {low : Nat} {m n : Memory} (hm : wfFrom low m = true) (hn : wfFrom low n = true)
    (h : ∀ a < 65536, read m a = read n a) : m = n := by
  induction m generalizing low n with
  | nil =>
    cases n with
    | nil => rfl
    | cons cell n =>
      have hk := ((wfFrom_cons ..).mp hn).2.1
      exact absurd (h _ hk).symm (read_head_ne (low' := cell.1 + 1) hn rfl (Nat.lt_succ_self _))
  | cons cell m ih =>
    obtain ⟨k, v⟩ := cell
    obtain ⟨-, hk, hv, hm'⟩ := (wfFrom_cons ..).mp hm
    cases n with
    | nil => exact absurd (h k hk) (read_head_ne (low' := k + 1) hm rfl (Nat.lt_succ_self k))
    | cons cell n =>
      obtain ⟨k', v'⟩ := cell
      obtain ⟨-, hk', hv', hn'⟩ := (wfFrom_cons ..).mp hn
      obtain hlt | rfl | hgt := Nat.lt_trichotomy k k'
      · have hn : wfFrom k' ((k', v') :: n) = true := (wfFrom_cons ..).mpr ⟨le_rfl, hk', hv', hn'⟩
        exact absurd (h k hk) (read_head_ne hm hn hlt)
      · have hvv : v = v' := by simpa using h k hk
        have hrest : m = n := by
          refine ih hm' hn' fun a ha => ?_
          by_cases hka : k = a
          · have hlt : a < k + 1 := by omega
            rw [read_of_lt hlt hm', read_of_lt hlt hn']
          · simpa only [read_cons_ne hka] using h a ha
        rw [hvv, hrest]
      · have hm : wfFrom k ((k, v) :: m) = true := (wfFrom_cons ..).mpr ⟨le_rfl, hk, hv, hm'⟩
        exact absurd (h k' hk').symm (read_head_ne hn hm hgt)

end Sys2Proof.Machine.Memory

namespace Sys2Proof

open Machine

/-- Settles O19: an address is a word, so the two read the same at every address below 65,536. -/
theorem canonicalMemoryIsUnique : Obligations.CanonicalMemoryIsUnique := by
  intro m n hm hn h
  refine Memory.eq_of_wfFrom hm hn fun a ha => ?_
  simpa [BitVec.toNat_ofNat, Nat.mod_eq_of_lt ha] using h (BitVec.ofNat 16 a)

/-- Settles O16: `read_ofBytes` gives the bytes, `ofBytes_wf` the canonical form, and the other fields are written out in
`construct`. -/
theorem constructionPlacesImage : Obligations.ConstructionPlacesImage := by
  intro p image (hlen : image.length ≤ memorySize)
  refine ⟨_, if_neg hlen.not_gt, ⟨by simp only [Memory.ofBytes_wf], rfl⟩, fun a ha => ?_, fun a ha => ?_, rfl, rfl, rfl,
    rfl, rfl, rfl, rfl, rfl, rfl, rfl⟩
  · rw [State.readMem, Memory.read_ofBytes _ a.isLt, List.getD_eq_getElem _ _ ha]
  · rw [State.readMem, Memory.read_ofBytes _ a.isLt, List.getD_eq_default _ _ ha]

/-- Settles O13: no entry is listed, and the machine runs. -/
theorem resetSatisfiesInvariant : Obligations.ResetSatisfiesInvariant := ⟨State.reset_wf, rfl⟩

/-- Settles O15: each field is written out in `State.reset`, and no address is listed. -/
theorem resetValues : Obligations.ResetValues :=
  ⟨rfl, rfl, rfl, rfl, rfl, rfl, rfl, rfl, fun r => by cases r <;> rfl, fun _ => rfl, rfl, rfl, rfl, rfl⟩

/-- Settles O18: the memory construction builds from no byte reads as the empty list does, so it is the empty list. -/
theorem resetIsDefaultConstruction : Obligations.ResetIsDefaultConstruction := by
  have hmem : (Memory.ofBytes fun a => ([] : List Byte).getD a (defaultStart.memTail a)) = [] :=
    canonicalMemoryIsUnique _ _ (Memory.ofBytes_wf _) rfl fun a => Memory.read_ofBytes _ a.isLt
  exact (if_neg (Nat.not_lt_zero _)).trans (by rw [hmem]; rfl)

end Sys2Proof
end

section
/-! Moving data (41_data_transfer.md) and counting pairs (R177 to R179). One lemma per kind of destination: a register, a
byte of memory, a pair. -/

namespace Sys2Proof

/-- The two bytes of a word in numbers. -/
theorem hiByte_loByte_toNat (v : Word) : (hiByte v).toNat * 256 + (loByte v).toNat = v.toNat := by
  rw [← mkWord_toNat, mkWord_hiByte_loByte]

end Sys2Proof

namespace Sys2Proof.Machine

theorem keepsControl_setPair (s : State) (p : RegPair) (v : Word) : KeepsControl s (s.setPair p v) :=
  ⟨s.setPair_ie p v, s.setPair_run p v, s.setPair_result p v, s.setPair_ioOut p v, s.setPair_inCount p v,
    s.setPair_config p v⟩

theorem changesOnlyRegs_setReg (s : State) (r : Reg) (v : Byte) : ChangesOnlyRegs [r] s (s.setReg r v) :=
  ⟨keepsRegsBut_setReg s r v, rfl, fun _ => rfl, ⟨rfl, rfl, rfl, rfl, rfl, rfl⟩⟩

theorem changesOnlyRegs_setPair (s : State) {p : RegPair} (hp : p ≠ .sp) (v : Word) :
    ChangesOnlyRegs (pairHalves p) s (s.setPair p v) :=
  ⟨keepsRegsBut_setPair s p v, s.setPair_sp_of_ne hp v, s.setPair_readMem p v, keepsControl_setPair s p v⟩

theorem ChangesOnlyRegs.keepsControl {rs : List Reg} {s t : State} (h : ChangesOnlyRegs rs s t) : KeepsControl s t := by
  obtain ⟨-, -, -, hcontrol⟩ := h
  exact hcontrol

theorem ChangesOnlyRegs.trans {rs qs : List Reg} {s t u : State} (hst : ChangesOnlyRegs rs s t)
    (htu : ChangesOnlyRegs qs t u) : ChangesOnlyRegs (rs ++ qs) s u := by
  obtain ⟨hregs, hsp, hmem, hie, hrun, hres, hout, hin, hconf⟩ := hst
  obtain ⟨hregs', hsp', hmem', hie', hrun', hres', hout', hin', hconf'⟩ := htu
  refine ⟨fun r hr => ?_, hsp'.trans hsp, fun a => (hmem' a).trans (hmem a), hie'.trans hie, hrun'.trans hrun,
    hres'.trans hres, hout'.trans hout, hin'.trans hin, hconf'.trans hconf⟩
  rw [List.mem_append, not_or] at hr
  rw [hregs' r hr.2, hregs r hr.1]

theorem holdsPair_advance (s : State) (p : RegPair) (hi lo : Byte) (length : Word) :
    HoldsPair (s.advance length) p hi lo ↔ HoldsPair s p hi lo := by
  cases p <;> rfl

namespace State

theorem readMem_writeWord_low (s : State) (a v : Word) : (s.writeWord a v).readMem a = loByte v := by
  rw [readMem_writeWord, if_neg (add_one_ne a).symm, if_pos rfl]

theorem readMem_writeWord_high (s : State) (a v : Word) : (s.writeWord a v).readMem (a + 1) = hiByte v := by
  rw [readMem_writeWord, if_pos rfl]

end State

variable {i : Instr} {s : State} {length : Word}

theorem moves_of_setReg {r : Reg} {v : Byte} (h : exec i s = .next ((s.setReg r v).advance length)) :
    Moves i s length fun t => t.reg r = v ∧ ChangesOnlyRegs [r] s t :=
  have hchanges := changesOnlyRegs_setReg s r v
  ⟨_, h, ⟨s.reg_setReg_same r v, hchanges⟩, rfl, rfl, hchanges.keepsControl⟩

theorem moves_of_writeMem {a : Word} {v : Byte} (h : exec i s = .next ((s.writeMem a v).advance length)) :
    Moves i s length fun t => t.readMem a = v ∧ KeepsMemBut [a] s t ∧ KeepsRegsBut [] s t ∧ t.sp = s.sp :=
  ⟨_, h, ⟨s.readMem_writeMem_same a v, keepsMemBut_writeMem s a v, fun _ _ => rfl, rfl⟩, rfl, rfl,
    ⟨rfl, rfl, rfl, rfl, rfl, rfl⟩⟩

theorem moves_of_setPair {p : RegPair} {v : Word} (h : exec i s = .next ((s.setPair p v).advance length)) :
    Moves i s length fun t => HoldsPair t p (hiByte v) (loByte v) ∧
      KeepsRegsBut (pairHalves p) s t ∧ (p ≠ .sp → t.sp = s.sp) ∧ KeepsMem s t :=
  ⟨_, h, ⟨(holdsPair_advance ..).mpr (holdsPair_setPair s p v), keepsRegsBut_setPair s p v,
    fun hp => s.setPair_sp_of_ne hp v, s.setPair_readMem p v⟩, s.setPair_flags p v,
    congrArg (· + length) (s.setPair_pc p v), keepsControl_setPair s p v⟩

end Sys2Proof.Machine

namespace Sys2Proof

open Machine

/-- Settles O20: the three forms differ in the byte they write to the destination register. -/
theorem registerLoads : Obligations.RegisterLoads :=
  fun _ _ _ _ => ⟨moves_of_setReg rfl, moves_of_setReg rfl, moves_of_setReg rfl⟩

/-- Settles O21: the three forms differ in the address they load A from. -/
theorem accumulatorLoads : Obligations.AccumulatorLoads :=
  fun _ _ => ⟨moves_of_setReg rfl, moves_of_setReg rfl, moves_of_setReg rfl⟩

/-- Settles O22: the five forms differ in the address and the byte they store. -/
theorem byteStores : Obligations.ByteStores := fun _ _ _ _ =>
  ⟨moves_of_writeMem rfl, moves_of_writeMem rfl, moves_of_writeMem rfl, moves_of_writeMem rfl, moves_of_writeMem rfl⟩

/-- Settles O23: the halves of the word written are the third and the second byte of the instruction. -/
theorem lxiLoadsPair : Obligations.LxiLoadsPair := by
  intro s p b3 b2
  have h := moves_of_setPair (i := .lxi p (mkWord b3 b2)) (s := s) rfl
  rwa [hiByte_mkWord, loByte_mkWord] at h

/-- Settles O24: LHLD writes the pair H with the word at the address, SHLD writes that word with the pair H. -/
theorem hlDirectTransfers : Obligations.HlDirectTransfers := by
  refine fun s a16 => ⟨?_, ?_⟩
  · obtain ⟨t, ht, ⟨⟨hh, hl⟩, hregs, hsp, hmem⟩, hflags, hpc, hcontrol⟩ :=
      moves_of_setPair (i := .lhld a16) (s := s) rfl
    exact ⟨t, ht, ⟨hl.trans (loByte_mkWord ..), hh.trans (hiByte_mkWord ..), hregs, hsp nofun, hmem, hcontrol⟩, hflags, hpc,
      hcontrol⟩
  · have hlow := (s.readMem_writeWord_low a16 s.hl).trans s.loByte_hl
    have hhigh := (s.readMem_writeWord_high a16 s.hl).trans s.hiByte_hl
    exact ⟨_, rfl, ⟨hlow, hhigh, keepsMemBut_writeWord s a16 s.hl, fun _ _ => rfl, rfl⟩, rfl, rfl,
      ⟨rfl, rfl, rfl, rfl, rfl, rfl⟩⟩

/-- Settles O25: the pair D is read before it is written, so the two writes exchange. -/
theorem xchgExchanges : Obligations.XchgExchanges := by
  intro s
  have hchanges := (changesOnlyRegs_setPair s (p := .h) nofun (s.pair .d)).trans
    (changesOnlyRegs_setPair (s.setPair .h (s.pair .d)) (p := .d) nofun s.hl)
  exact ⟨_, rfl, ⟨hiByte_mkWord .., loByte_mkWord .., s.hiByte_hl, s.loByte_hl, hchanges⟩, rfl, rfl, hchanges.keepsControl⟩

/-- Settles O29: INX and DCX write the pair with 1 or 65,535 added to it. -/
theorem pairCounting : Obligations.PairCounting := by
  intro s p hi lo hpair counts
  have count {i : Instr} (d : Word) (h : exec i s = .next ((s.setPair p (s.pair p + d)).advance 1)) : counts i d.toNat := by
    obtain ⟨t, ht, ⟨hholds, hkept⟩, hrest⟩ := moves_of_setPair h
    refine ⟨t, ht, ⟨⟨_, _, hholds, ?_⟩, hkept⟩, hrest⟩
    rw [hiByte_loByte_toNat, pair_of_holdsPair hpair, BitVec.toNat_add, mkWord_toNat]
  have hdown : s.pair p - 1 = s.pair p + 65535 := BitVec.sub_eq_add_neg ..
  exact ⟨count 1 rfl, count 65535 (by rw [← hdown]; rfl)⟩

end Sys2Proof
end

section
/-! Arithmetic and logic (40_alu_flag_rules.md, 42_arithmetic.md, 43_logical.md). The forms of an instruction differ in the
operand only, so each is `accumulate`, `compare` or `rotateTo` of one function of the operand. -/

namespace Sys2Proof.Machine

/-- Whether DAA adds 0x60 (R121): the high digit is judged after 6 or 0 was added at the low one. -/
theorem daa8_fixHigh_iff (a : Byte) (cy : Bool) {six : Nat} (hsix : six = 6 ∨ six = 0)
    (hlow : 9 < a.toNat % 16 → six = 6) :
    (decide (a.toNat / 16 > 9) || cy || (decide (a.toNat / 16 ≥ 9) && decide (a.toNat % 16 > 9))) = true ↔
      9 < (a.toNat + six) / 16 ∨ cy = true := by
  simp only [Bool.or_eq_true, Bool.and_eq_true, decide_eq_true_eq]
  rw [or_right_comm]
  exact or_congr_left (by omega)

/-- DAA adds 6 or 0, then 0x60 or 0 by the digit that gives; the carry out of bit 3 is the one of the first addition. -/
theorem daa8_adjusts (a : Byte) (cy ac : Bool) {six : Nat} (h6 : 9 < a.toNat % 16 ∨ ac = true → six = 6)
    (h0 : ¬ (9 < a.toNat % 16 ∨ ac = true) → six = 0) :
    (9 < (a.toNat + six) / 16 ∨ cy = true →
      (daa8 a cy ac).res.toNat = (a.toNat + six + 0x60) % 256 ∧ (daa8 a cy ac).cy = true) ∧
    (¬ (9 < (a.toNat + six) / 16 ∨ cy = true) → (daa8 a cy ac).res.toNat = a.toNat + six ∧ (daa8 a cy ac).cy = cy) ∧
    ((daa8 a cy ac).ac = true ↔ 15 < a.toNat % 16 + six) := by
  have hsix : six = 6 ∨ six = 0 := (em _).imp h6 h0
  have hlow : (if decide (a.toNat % 16 > 9) || ac then 0x06 else 0) = six := by
    split
    case isTrue h => exact (h6 (by simpa using h)).symm
    case isFalse h => exact (h0 (by simpa using h)).symm
  have hhigh := daa8_fixHigh_iff a cy hsix fun h => h6 (.inl h)
  have sum (sixty : Nat) (h : sixty = 0x60 ∨ sixty = 0) :
      (add8 a (BitVec.ofNat 8 (six + sixty)) false).res.toNat = (a.toNat + six + sixty) % 256 ∧
      ((add8 a (BitVec.ofNat 8 (six + sixty)) false).ac = true ↔ 15 < a.toNat % 16 + six) := by
    obtain ⟨hres, -, hac⟩ := add8_isSum a (BitVec.ofNat 8 (six + sixty)) false
    have hcorr : (BitVec.ofNat 8 (six + sixty)).toNat = six + sixty := Nat.mod_eq_of_lt (by omega)
    rw [hcorr, Bool.toNat_false, Nat.add_zero] at hres hac
    exact ⟨by omega, hac.trans (by omega)⟩
  simp only [daa8, hlow, ← hhigh]
  generalize (decide (a.toNat / 16 > 9) || cy || (decide (a.toNat / 16 ≥ 9) && decide (a.toNat % 16 > 9))) = fixHigh
    at hhigh ⊢
  cases fixHigh with
  | true => exact ⟨fun _ => ⟨(sum 0x60 (.inl rfl)).1, rfl⟩, fun h => absurd rfl h, (sum 0x60 (.inl rfl)).2⟩
  | false =>
    have hhi : ¬ (9 < (a.toNat + six) / 16 ∨ cy = true) := fun h => nomatch hhigh.mpr h
    have := a.isLt
    exact ⟨nofun, fun _ => ⟨(sum 0 (.inr rfl)).1.trans (by omega), rfl⟩, (sum 0 (.inr rfl)).2⟩
/-- An instruction whose meaning is `compare`. -/
theorem compares_of {i : Instr} {s : State} {x : Alu8} {length : Word} (h : exec i s = .next (s.compare x length)) :
    ∃ t, exec i s = .next t ∧ t.flags = x.flags ∧ t.pc = s.pc + length ∧ ChangesOnlyRegs [] s t :=
  ⟨_, h, rfl, rfl, fun _ _ => rfl, rfl, fun _ => rfl, ⟨rfl, rfl, rfl, rfl, rfl, rfl⟩⟩

/-- An instruction whose meaning is `rotateTo`. -/
theorem rotates_of {i : Instr} {s : State} {x : Byte × Bool} (h : exec i s = .next (s.rotateTo x)) :
    ∃ t, exec i s = .next t ∧ t.reg .a = x.1 ∧ t.flags = { s.flags with cy := x.2 } ∧ t.pc = s.pc + 1 ∧
      ChangesOnlyRegs [.a] s t :=
  ⟨_, h, rfl, rfl, rfl, changesOnlyRegs_setReg s .a x.1⟩

/-- An instruction whose meaning writes CY alone. -/
theorem writesCy_of {i : Instr} {s : State} {v : Bool} (h : exec i s = .next ((s.setCy v).advance 1)) :
    ∃ t, exec i s = .next t ∧ t.flags = { s.flags with cy := v } ∧ t.pc = s.pc + 1 ∧ ChangesOnlyRegs [] s t :=
  ⟨_, h, rfl, rfl, fun _ _ => rfl, rfl, fun _ => rfl, ⟨rfl, rfl, rfl, rfl, rfl, rfl⟩⟩

theorem complement_toNat (a : Byte) : (a ^^^ 0xFF).toNat = 255 - a.toNat := by
  have h : a ^^^ 0xFF = ~~~a := BitVec.xor_allOnes
  rw [h, BitVec.toNat_not]

end Sys2Proof.Machine

namespace Sys2Proof

open Machine

/-- Settles O26: `add8` of the operand, with no carry in or with CY. -/
theorem addInstructions : Obligations.AddInstructions :=
  fun _ _ _ => ⟨accumulates_of rfl (add8_isSum ..), accumulates_of rfl (add8_isSum ..), accumulates_of rfl (add8_isSum ..),
    accumulates_of rfl (add8_isSum ..), accumulates_of rfl (add8_isSum ..), accumulates_of rfl (add8_isSum ..)⟩

/-- Settles O27: `sub8` of the operand, with no borrow in or with CY. -/
theorem subtractInstructions : Obligations.SubtractInstructions := by
  intro s src d8 is
  have sub (v : Byte) (bin : Bool) := sub8_isDifference s.config.acSubPolarity (s.reg .a) v bin
  exact ⟨accumulates_of rfl (sub _ _), accumulates_of rfl (sub _ _), accumulates_of rfl (sub _ _),
    accumulates_of rfl (sub _ _), accumulates_of rfl (sub _ _), accumulates_of rfl (sub _ _)⟩

/-- Settles O30: DAD writes the pair H with `add16` of two pairs, and CY with its carry. -/
theorem dadAddsPairToHl : Obligations.DadAddsPairToHl := by
  intro s p hi lo hpair sum
  have hsum : s.hl.toNat + (s.pair p).toNat = sum := by
    rw [pair_of_holdsPair hpair, s.hl_eq, mkWord_toNat, mkWord_toNat, ← Nat.add_assoc]
  refine ⟨_, rfl, ?_, ?_, rfl, rfl, rfl, rfl, rfl, changesOnlyRegs_setPair s (p := .h) nofun _⟩
  · exact (hiByte_loByte_toNat _).trans ((add16_toNat ..).trans (by rw [hsum]))
  · exact (add16_carry ..).trans (by rw [hsum])

/-- Settles O31: what is true of A and the two flags of every state is said of a byte and two bits in `daa8_adjusts`. -/
theorem daaAdjustsInTwoSteps : Obligations.DaaAdjustsInTwoSteps :=
  fun s _ h6 h0 => accumulates_of rfl (daa8_adjusts (s.reg .a) s.flags.cy s.flags.ac h6 h0)

/-- Settles O32: `and8` of the operand, which writes AC by the mode. -/
theorem andInstructions : Obligations.AndInstructions := by
  intro s src d8 is
  have and (v : Byte) : is v (s.and (s.reg .a) v).res (s.and (s.reg .a) v).cy (s.and (s.reg .a) v).ac := by
    refine ⟨fun k _ => BitVec.getLsbD_and, rfl, fun h => ?_, fun h => ?_⟩
    · simp [State.and, and8, h]
    · simp [State.and, and8, h]
  exact ⟨accumulates_of rfl (and _), accumulates_of rfl (and _), accumulates_of rfl (and _)⟩

/-- Settles O33: `xor8` or `or8` of the operand, neither of which sets a carry. -/
theorem xorOrInstructions : Obligations.XorOrInstructions := by
  intro s src d8 is
  have xor (v : Byte) : is xor v (xor8 (s.reg .a) v).res false false := ⟨fun _ _ => BitVec.getLsbD_xor, rfl, rfl⟩
  have or (v : Byte) : is or v (or8 (s.reg .a) v).res false false := ⟨fun _ _ => BitVec.getLsbD_or, rfl, rfl⟩
  exact ⟨accumulates_of rfl (xor _), accumulates_of rfl (xor _), accumulates_of rfl (xor _),
    accumulates_of rfl (or _), accumulates_of rfl (or _), accumulates_of rfl (or _)⟩

/-- Settles O34: the flags are those of `sub8` of the operand, whose result is not kept. -/
theorem compareInstructions : Obligations.CompareInstructions := by
  intro s src d8 compares
  have compare {i : Instr} {length : Word} (v : Byte)
      (h : exec i s = .next (s.compare (s.sub (s.reg .a) v false) length)) : compares i length v := by
    obtain ⟨t, ht, hflags, hrest⟩ := compares_of h
    refine ⟨t, ht, ⟨(s.sub (s.reg .a) v false).res, ?_⟩, hrest⟩
    rw [hflags]
    exact ⟨sub8_isDifference .., flagsOfResult_alu8 _⟩
  exact ⟨compare _ rfl, compare _ rfl, compare _ rfl⟩

/-- Settles O35: the bits of each rotation are the ones its lemma in Laws/Flags.lean gives. -/
theorem rotateInstructions : Obligations.RotateInstructions := by
  intro s a rotates
  have rotate {i : Instr} {x : Byte × Bool} {bit : Nat → Bool} (h : exec i s = .next (s.rotateTo x))
      (hbit : ∀ k < 8, x.1.getLsbD k = bit k) : rotates i bit x.2 := by
    obtain ⟨t, ht, ha, hrest⟩ := rotates_of h
    exact ⟨t, ht, fun k hk => by rw [ha, hbit k hk], hrest⟩
  exact ⟨rotate rfl fun _ => rotateLeft_bit _, rotate rfl fun _ => rotateRight_bit _,
    rotate rfl fun _ => rotateLeftCarry_bit _ _, rotate rfl fun _ => rotateRightCarry_bit _ _⟩

/-- Settles O36: CMA writes A alone, CMC and STC write CY alone. -/
theorem complementAndCarry : Obligations.ComplementAndCarry := by
  refine fun s => ⟨?_, writesCy_of rfl, writesCy_of rfl⟩
  obtain ⟨t, ht, ⟨ha, hchanges⟩, hrest⟩ := moves_of_setReg (i := .cma) (s := s) rfl
  exact ⟨t, ht, ⟨(congrArg BitVec.toNat ha).trans (complement_toNat _), hchanges⟩, hrest⟩

end Sys2Proof
end

section
/-! Transfers (44_branch.md): the shared operation of each group says what its instructions do, and a return after a call
comes back to the address pushed. -/

namespace Sys2Proof.Machine

/-- An instruction whose meaning is an unconditional jump. -/
theorem jumps_of_setPc {i : Instr} {s : State} {target : Word} (h : exec i s = .next (s.setPc target)) :
    Jumps i s true target :=
  ⟨_, h, fun _ => rfl, nofun, rfl, fun _ _ => rfl, rfl, fun _ => rfl, ⟨rfl, rfl, rfl, rfl, rfl, rfl⟩⟩

end Sys2Proof.Machine

namespace Sys2Proof

open Machine

/-- Settles O37: both write PC alone. -/
theorem unconditionalJumps : Obligations.UnconditionalJumps := fun _ _ => ⟨jumps_of_setPc rfl, jumps_of_setPc rfl⟩

/-- Settles O38: each jumps on the condition its mnemonic names. -/
theorem conditionalJumps : Obligations.ConditionalJumps := fun _ _ =>
  ⟨jumps_of (cond := .nz) rfl, jumps_of (cond := .z) rfl, jumps_of (cond := .nc) rfl, jumps_of (cond := .c) rfl,
    jumps_of (cond := .po) rfl, jumps_of (cond := .pe) rfl, jumps_of (cond := .p) rfl, jumps_of (cond := .m) rfl⟩

/-- Settles O39: CALL is a call of length 3, RST one of length 1. -/
theorem unconditionalCalls : Obligations.UnconditionalCalls := fun _ _ _ => ⟨calls_of rfl, calls_of rfl⟩

/-- Settles O40: each calls on the condition its mnemonic names. -/
theorem conditionalCalls : Obligations.ConditionalCalls := fun _ _ =>
  ⟨calls_of_callIf (cond := .nz) rfl, calls_of_callIf (cond := .z) rfl, calls_of_callIf (cond := .nc) rfl,
    calls_of_callIf (cond := .c) rfl, calls_of_callIf (cond := .po) rfl, calls_of_callIf (cond := .pe) rfl,
    calls_of_callIf (cond := .p) rfl, calls_of_callIf (cond := .m) rfl⟩

/-- Settles O41: each returns on the condition its mnemonic names, RET on none. -/
theorem returnInstructions : Obligations.ReturnInstructions := fun _ =>
  ⟨returns_of rfl, returns_of_returnIf (cond := .nz) rfl, returns_of_returnIf (cond := .z) rfl,
    returns_of_returnIf (cond := .nc) rfl, returns_of_returnIf (cond := .c) rfl,
    returns_of_returnIf (cond := .po) rfl, returns_of_returnIf (cond := .pe) rfl,
    returns_of_returnIf (cond := .p) rfl, returns_of_returnIf (cond := .m) rfl⟩

/-- Settles O42: the word on top of the stack is the one the call pushed, and the return undoes the change of SP. -/
theorem callThenReturn : Obligations.CallThenReturn := by
  intro s a16 n comesBack
  have back {i : Instr} {length target : Word} (h : exec i s = .next (s.callFrom length target)) : comesBack i length :=
    ⟨_, _, h, rfl, s.top16_push16 (s.pc + length), BitVec.sub_add_cancel s.sp 2, rfl, fun _ _ => rfl⟩
  exact ⟨back rfl, back rfl⟩

end Sys2Proof
end

section
/-! The stack, input and output, control and the unassigned opcodes (45_stack_io_control.md). A pop after a push gives back
the word pushed, so it writes registers with the values they have. -/

namespace Sys2Proof.Machine

/-- Writing a register with the value it has changes no register. -/
theorem State.reg_setReg_reg (s : State) (q r : Reg) : (s.setReg q (s.reg q)).reg r = s.reg r := by
  rw [reg_setReg]
  split
  · rw [‹r = q›]
  · rfl

/-- Writing a pair with the value it has elsewhere gives its registers the values they have there. -/
theorem State.reg_setPair_pair {s t : State} (hregs : t.regs = s.regs) {p : RegPair} (hp : p ≠ .sp) (r : Reg) :
    (t.setPair p (s.pair p)).reg r = s.reg r := by
  have hreg (q : Reg) : t.reg q = s.reg q := congrArg (Regs.get · q) hregs
  rw [reg_setPair]
  cases p
  case sp => exact absurd rfl hp
  all_goals
    simp only [pair, hiByte_mkWord, loByte_mkWord, hreg]
    split_ifs with hhigh hlow
    · rw [hhigh]
    · rw [hlow]
    · rfl

/-- An instruction whose meaning is the pop of a pair. -/
theorem moves_of_popPair {i : Instr} {s : State} {p : RegPair} (hp : p ≠ .sp)
    (h : exec i s = .next ((s.pop16.setPair p s.top16).advance 1)) :
    Moves i s 1 fun t => HoldsPair t p (s.readMem (s.sp + 1)) (s.readMem s.sp) ∧ t.sp = s.sp + 2 ∧
      KeepsRegsBut (pairHalves p) s t ∧ KeepsMem s t := by
  have hholds := holdsPair_setPair s.pop16 p s.top16
  rw [s.top16_eq, hiByte_mkWord, loByte_mkWord] at hholds
  exact ⟨_, h, ⟨(holdsPair_advance ..).mpr hholds, s.pop16.setPair_sp_of_ne hp _, keepsRegsBut_setPair s.pop16 p _,
    s.pop16.setPair_readMem p _⟩, s.pop16.setPair_flags p _, congrArg (· + 1) (s.pop16.setPair_pc p _),
    keepsControl_setPair s.pop16 p _⟩

end Sys2Proof.Machine

namespace Sys2Proof

open Machine

/-- Settles O43: the word pushed is the pair. -/
theorem pushPairs : Obligations.PushPairs := fun _ => ⟨pushes_of rfl, pushes_of rfl, pushes_of rfl⟩

/-- Settles O44: the word pushed is A and the flag byte, whose bits `flagByte_bits` gives. -/
theorem pushPswStoresFlagByte : Obligations.PushPswStoresFlagByte := fun s =>
  ⟨flagByte s.flags, pushes_of rfl, flagByte_bits s.flags⟩

/-- Settles O45: the pair is written with the word on top of the stack. -/
theorem popPairs : Obligations.PopPairs := fun _ =>
  ⟨moves_of_popPair nofun rfl, moves_of_popPair nofun rfl, moves_of_popPair nofun rfl⟩

/-- Settles O46: the halves of the word on top of the stack are the two bytes read. -/
theorem popPswLoadsFlags : Obligations.PopPswLoadsFlags := by
  intro s b
  have hlo : loByte s.top16 = b := loByte_mkWord ..
  have hhi : hiByte s.top16 = s.readMem (s.sp + 1) := hiByte_mkWord ..
  have hexec : exec .popPsw s = .next (((s.pop16.setReg .a (s.readMem (s.sp + 1))).setFlags (flagsOfByte b)).advance 1) := by
    rw [← hlo, ← hhi]
    rfl
  exact ⟨_, hexec, rfl, rfl, rfl, rfl, rfl, rfl, rfl, rfl, keepsRegsBut_setReg s.pop16 .a _, fun _ => rfl,
    ⟨rfl, rfl, rfl, rfl, rfl, rfl⟩⟩

/-- Settles O47: the word popped is the one pushed, so each register and the flags are written with the values they have. -/
theorem pushThenPopRestores : Obligations.PushThenPopRestores := by
  intro s restores
  have pair {p : RegPair} (hp : p ≠ .sp) : restores (.pushRp p) (.popRp p) := by
    let t := (s.push16 (s.pair p)).advance 1
    have htop : t.top16 = s.pair p := s.top16_push16 _
    have hpop : exec (.popRp p) t = .next ((t.pop16.setPair p (s.pair p)).advance 1) := by
      simp only [exec, execPopRp, htop]
    exact ⟨t, _, rfl, hpop, fun r _ => State.reg_setPair_pair (s := s) (t := t.pop16) rfl hp r, t.pop16.setPair_flags p _,
      (t.pop16.setPair_sp_of_ne hp _).trans (BitVec.sub_add_cancel s.sp 2)⟩
  have psw : restores .pushPsw .popPsw := by
    let t := (s.push16 (mkWord (s.reg .a) (flagByte s.flags))).advance 1
    have htop : t.top16 = mkWord (s.reg .a) (flagByte s.flags) := s.top16_push16 _
    have hpop : exec .popPsw t = .next (((t.pop16.setReg .a (s.reg .a)).setFlags s.flags).advance 1) := by
      simp only [exec, execPopPsw, htop, hiByte_mkWord, loByte_mkWord, flagsOfByte_flagByte]
    exact ⟨t, _, rfl, hpop, fun r _ => t.pop16.reg_setReg_reg .a r, rfl,
      BitVec.sub_add_cancel s.sp 2⟩
  exact ⟨pair nofun, pair nofun, pair nofun, psw⟩

/-- Settles O49: XTHL stores H:L at SP and writes H:L with the word that was there before; SPHL writes SP alone. -/
theorem hlStackExchange : Obligations.HlStackExchange := by
  intro s
  have low := (s.readMem_writeWord_low s.sp s.hl).trans s.loByte_hl
  have high := (s.readMem_writeWord_high s.sp s.hl).trans s.hiByte_hl
  exact ⟨⟨_, rfl, ⟨loByte_mkWord .., hiByte_mkWord .., low, high, rfl,
      keepsRegsBut_setPair (s.writeWord s.sp s.hl) .h s.top16, keepsMemBut_writeWord s s.sp s.hl⟩, rfl, rfl,
      ⟨rfl, rfl, rfl, rfl, rfl, rfl⟩⟩,
    ⟨_, rfl, ⟨rfl, fun _ _ => rfl, fun _ => rfl⟩, rfl, rfl, ⟨rfl, rfl, rfl, rfl, rfl, rfl⟩⟩⟩

/-- Settles O50: each is the state with PC, IE, the run state and the result replaced. -/
theorem controlInstructions : Obligations.ControlInstructions := by
  intro s only
  have only_of {t : State} (h : t = { s with pc := s.pc + 1, ie := t.ie, run := t.run, result := t.result }) : only t := by
    rw [h]
    exact ⟨fun _ _ => rfl, rfl, rfl, rfl, fun _ => rfl, rfl, rfl, rfl⟩
  exact ⟨⟨_, rfl, only_of rfl, rfl, rfl, rfl⟩, ⟨_, rfl, only_of rfl, rfl, rfl, rfl⟩,
    ⟨_, rfl, only_of rfl, rfl, rfl, rfl⟩, ⟨_, rfl, only_of rfl, rfl, rfl, rfl⟩⟩

/-- Settles O51: IN writes A and the count, OUT the trace. -/
theorem inputOutput : Obligations.InputOutput := by
  intro s port only
  exact ⟨⟨_, rfl, ⟨keepsRegsBut_setReg s .a _, rfl, rfl, rfl, fun _ => rfl, rfl, rfl, rfl, rfl⟩, rfl, rfl, rfl⟩,
    ⟨_, rfl, ⟨fun _ _ => rfl, rfl, rfl, rfl, fun _ => rfl, rfl, rfl, rfl, rfl⟩, rfl, rfl⟩⟩

/-- Settles O52: in fault mode the four rows are the fault entry, with their own opcode bytes. -/
theorem unassignedOpcodesFault : Obligations.UnassignedOpcodesFault := by
  intro s x y hm reports
  have report {i : Instr} {op : Byte} {alt : State} (h : exec i s = .next (s.unassigned op alt)) : reports i op :=
    ⟨s.raiseUnknown op, h.trans (congrArg _ (unassigned_faulting hm op alt)), rfl, rfl, rfl, rfl, rfl, rfl, fun _ => rfl,
      rfl, rfl, rfl, rfl⟩
  have hnop : opcode (.unassignedNop x) = BitVec.ofNat 8 (8 * x.val) := congrArg (BitVec.ofNat 8) (Nat.zero_add _)
  exact ⟨hnop ▸ report rfl, report rfl, report rfl, report rfl⟩

/-- Settles O53: in the other mode the four rows are the states NOP, JMP, RET and CALL answer. -/
theorem unassignedOpcodesAlias : Obligations.UnassignedOpcodesAlias := by
  intro s x y hm a16 actsAs
  have acts {i j : Instr} {op : Byte} {alt : State} (hi : exec i s = .next (s.unassigned op alt))
      (hj : exec j s = .next alt) : actsAs i j :=
    ⟨alt, hi.trans (congrArg _ (unassigned_aliased hm op alt)), hj⟩
  exact ⟨acts rfl rfl, acts rfl rfl, acts rfl rfl, acts rfl rfl⟩

end Sys2Proof
end
